-- ==== Sys2Proof/Word.lean ====
section
/-! DEFINITION. The word types of the machine (spec/00_scope.md R5, R7, R8): every quantity is an
unsigned integer of a stated width. -/

namespace Sys2Proof

/-- A byte: a general register, a timer, a memory cell (R5: `REG_BITS`, `TIMER_BITS`). -/
abbrev Byte := BitVec 8

/-- A 16-bit word: an instruction word, `pc`, `I`, a stack entry (R5: `WORD_BITS`, `PC_BITS`,
`I_BITS`, `STACK_ENTRY_BITS`). -/
abbrev Word := BitVec 16

end Sys2Proof
end

