-- ==== Sys2Proof/Config.lean ====
section
/-! DEFINITION. The parameters of the hardware (spec/00_scope.md R5, R6), the configuration record, and the
free values: what the collaborators answer, about which nothing is known. -/

namespace Sys2Proof

/-- The thirteen parameters of R5 by name, whose values this hardware fixes. -/
structure HardwareParams where
  /-- `WORD_BITS`: width of an instruction word. -/
  wordBits : Nat
  /-- `MEM_SIZE`: bytes of memory. -/
  memSize : Nat
  /-- `ADDR_BITS`: width of an `Address` operand. -/
  addrBits : Nat
  /-- `LOAD_ADDR`: where the image is placed and where the pc starts. -/
  loadAddr : Nat
  /-- `MAX_IMAGE`: the longest image. -/
  maxImage : Nat
  /-- `NREGS`: general registers. -/
  numRegs : Nat
  /-- `REG_BITS`: width of a general register. -/
  regBits : Nat
  /-- `TIMER_BITS`: width of each timer. -/
  timerBits : Nat
  /-- `PC_BITS`: width of the program counter. -/
  pcBits : Nat
  /-- `I_BITS`: stored width of the index register. -/
  iBits : Nat
  /-- `STACK_CAP`: entries of the call stack. -/
  stackCap : Nat
  /-- `STACK_ENTRY_BITS`: width of one stack entry. -/
  stackEntryBits : Nat
  /-- `N_VARIANTS`: operation variants. -/
  numVariants : Nat
  deriving DecidableEq, Repr

/-- The values of R5. -/
abbrev hardware : HardwareParams :=
  { wordBits := 16
    memSize := 4096
    addrBits := 12
    loadAddr := 0x200
    maxImage := 3584
    numRegs := 16
    regBits := 8
    timerBits := 8
    pcBits := 16
    iBits := 16
    stackCap := 12
    stackEntryBits := 16
    numVariants := 34 }

/-- `Q_SHIFT_SRC` (spec/92 D13): which register the shifts read. -/
inductive ShiftSrc where
  | vy
  | vx
  deriving DecidableEq, Repr

/-- `Q_JUMP_OFFSET_REG` (spec/92 D15): which register `JumpWithOffset` adds. -/
inductive JumpOffsetReg where
  | v0
  | vx
  deriving DecidableEq, Repr

/-- The parameters that R6 leaves open or gives a default. `fontBase` is an address with `FONT_BASE + 80 <= 0x200`, that is, at
most 432. -/
structure Params where
  shiftSrc : ShiftSrc
  memIncrI : Bool
  jumpOffsetReg : JumpOffsetReg
  logicResetsVF : Bool
  fontBase : Fin 433
  deriving DecidableEq, Repr

/-- All parameters in one record (R5: "A model should hold them in one configuration record; claims may name
them"; R6). -/
structure Configuration extends HardwareParams, Params
  deriving DecidableEq, Repr

/-- The record of this hardware with its open parameters set. -/
def configurationOf (p : Params) : Configuration := { toHardwareParams := hardware, toParams := p }

/-! The free values. Each is opaque: no proof can see a value of it. The `Nat` is the number of answers taken
so far (`State.asked`), so that two askings are unrelated (spec/60 R220). Log 2, log 3, log 6. -/

/-- `draw_byte()`, the random source's answer (R137, R221, D19). Free value. -/
opaque Config.drawByte : Nat → Byte
/-- `draw_bit()`, the display's collision answer (R163, R219, D20). Free value. -/
opaque Config.drawBit : Nat → BitVec 1
/-- `KeyDown(k)`, the keyboard's answer for the 8-bit key number k (R119, R220, D21). Free value. -/
opaque Config.keyDown : Nat → Byte → Bool
/-- The key 0 to 15 the keyboard presents to a `WaitKey`, or none (R173, R220, D21). Free value. -/
opaque Config.keyPresented : Nat → Option (BitVec 4)
/-- How many core steps pass before the next tick, counted from the last one or, if later, from when a timer began to
run (R97, R98, D22). Any number, and finite: R97's weak fairness. Free value. -/
opaque Config.tickGap : Nat → Nat
/-- `FONT_BASE`, open, with its constraint in its type (R6, R181, D23). Free value. -/
opaque Config.fontBase : Fin 433

end Sys2Proof
end

