-- ==== Sys2Proof/Machine/Params.lean ====
section
/-! DEFINITION. The default values of the switches (spec/00_scope.md R6; spec/92 D13 to D16). -/

namespace Sys2Proof.Machine

/-- The configuration record at reset: the four defaults of D13 to D16, and the open `FONT_BASE` (D23). Log 5,
log 6. -/
def defaultParams : Params :=
  { shiftSrc := .vy
    memIncrI := true
    jumpOffsetReg := .v0
    logicResetsVF := true
    fontBase := Config.fontBase }

end Sys2Proof.Machine
end

