-- ==== Sys2Proof/Machine/State.lean ====
section
/-! DEFINITION. The machine state as plain data (spec/10_state.md), the faults (spec/60_exceptions.md R200), and the
state after reset (R22). -/

namespace Sys2Proof.Machine

/-- Memory as a sorted list of the bytes that are not 0 (R30, R31). An unlisted address reads 0, the value
`load` gives every byte outside the image (R22). -/
abbrev Memory := List Host.Cell

/-- An event on the display port (spec/60 R219). -/
inductive DisplayEvent where
  | clearScreen
  | drawSprite (cx cy : Byte) (rows : List Byte)
  deriving DecidableEq, Repr

/-- The machine state. `mem` to `sp` are the record of R10 with the depth of R18; `params`, `asked`,
`untilTick` and `display` are the model's own (log 2, log 3, log 5, log 7). -/
structure State where
  /-- `mem[0..0xFFF]` (R30). -/
  mem : Memory
  /-- `V[0]` to `V[15]` (R11). -/
  v : Vector Byte 16
  /-- The delay timer (R15). -/
  dt : Byte
  /-- The sound timer (R16). -/
  st : Byte
  /-- The program counter (R13). -/
  pc : Word
  /-- The index register `I` (R14). -/
  iReg : Word
  /-- `stack[0]` to `stack[11]` (R17). -/
  stack : Vector Word 12
  /-- The stack depth, 0 to 12 (R18, log 12). -/
  sp : Fin 13
  /-- The open parameters of the configuration record (R6): no step writes them. -/
  params : Params
  /-- How many free answers have been taken (log 2). -/
  asked : Nat
  /-- How many core steps are left before the next tick; `none` while that number is not drawn (R97, log 3). -/
  untilTick : Option Nat
  /-- The events emitted on the display port, oldest first (R219). -/
  display : List DisplayEvent
  deriving DecidableEq, Repr

/-- The faults (R200). Each is precise and terminal (R207): the outcome holds no state, because none is written.
Safe: the machine stops where the spec says that it stops. -/
inductive Fault where
  /-- Raised by the fetch when pc < 0x200 or pc > 0xFFE (R91). Safe. -/
  | pcOutOfRange (pc : Word)
  /-- Raised by the step when the word at pc decodes to `Invalid` (R94). Safe. -/
  | invalidOpcode (pc word : Word)
  /-- Raised by `Call` when SP = 12 (R105); records the pc of the `Call`. Safe. -/
  | stackOverflow (pc : Word)
  /-- Raised by `Return` when SP = 0 (R101); records the pc of the `Return`. Safe. -/
  | stackUnderflow (pc : Word)
  /-- Raised by `Draw`, `StoreBCD`, `ContextStore`, `ContextLoad` for a data address above 0xFFF (R36, R37);
  records the first address out of range. Safe. -/
  | memoryOutOfBounds (address : Nat)
  /-- Raised by `load` for an image longer than 3584 bytes (R231); records the length. Safe. -/
  | imageTooLarge (length : Nat)
  deriving DecidableEq, Repr

/-- The refusals. No arm of `exec` answers with one: every instruction has its meaning. -/
inductive Refusal where
  /-- An instruction that has no meaning yet, rejected by name in `exec`. Safe. -/
  | notModelled (mnemonic : String)
  deriving DecidableEq, Repr

/-- The outcome of a step of this machine. -/
abbrev Result := Host.Outcome State Fault Refusal

/-- The state after reset (R22, R235): `load` of the empty image (log 8). -/
def State.reset : State :=
  { mem := []
    v := Vector.replicate 16 0
    dt := 0
    st := 0
    pc := 0x200
    iReg := 0
    stack := Vector.replicate 12 0
    sp := 0
    params := defaultParams
    asked := 0
    untilTick := none
    display := [] }

/-- The configuration record (R5, R6) of the machine in a state. -/
def State.configuration (s : State) : Configuration := configurationOf s.params

end Sys2Proof.Machine
end

