-- ==== Sys2Proof/Syntax.lean ====
section
/-! DEFINITION. The operation variants (spec/30_encoding.md R53, R55, R56): four operand types and one
constructor of `Instr` per row of spec/opcode_table.json, operands in the order of R56. -/

namespace Sys2Proof

/-- "12-bit value (0..=0x0FFF) identifying a memory location or jump target" (R53). -/
structure Address where
  value : BitVec 12
  deriving DecidableEq, Repr

/-- "8-bit immediate literal (0..=0xFF)" (R53). -/
structure Constant8 where
  value : Byte
  deriving DecidableEq, Repr

/-- "4-bit immediate literal (0..=0xF), used only for sprite height in the draw operation" (R53). -/
structure Constant4 where
  value : BitVec 4
  deriving DecidableEq, Repr

/-- "4-bit index (0..=0xF) identifying one of sixteen general-purpose registers" (R53). -/
structure Register where
  index : BitVec 4
  deriving DecidableEq, Repr

/-- An operation: "a closed, tagged union ... carrying zero, one, two, or three operands" (R55), "compared
by structural equality". -/
inductive Instr where
  | clearDisplay
  | ret
  | jump (address : Address)
  | call (address : Address)
  | skipEqualConstant (reg : Register) (const : Constant8)
  | skipNotEqualConstant (reg : Register) (const : Constant8)
  | skipEqualRegister (reg1 reg2 : Register)
  | loadConstant (reg : Register) (const : Constant8)
  | addConstant (reg : Register) (const : Constant8)
  | copy (reg1 reg2 : Register)
  | or (reg1 reg2 : Register)
  | and (reg1 reg2 : Register)
  | xor (reg1 reg2 : Register)
  | add (reg1 reg2 : Register)
  | sub (reg1 reg2 : Register)
  | shiftRight (reg1 reg2 : Register)
  | minusSub (reg1 reg2 : Register)
  | shiftLeft (reg1 reg2 : Register)
  | skipNotEqualRegister (reg1 reg2 : Register)
  | loadAddressConstant (address : Address)
  | jumpWithOffset (address : Address)
  | rand (reg : Register) (const : Constant8)
  | draw (regX regY : Register) (height : Constant4)
  | skipKeyEqual (reg : Register)
  | skipKeyNotEqual (reg : Register)
  | loadDelayTimer (reg : Register)
  | waitKey (reg : Register)
  | storeDelayTimer (reg : Register)
  | storeBeepTimer (reg : Register)
  | addAddress (reg : Register)
  | loadSpriteAddress (reg : Register)
  | storeBCD (reg : Register)
  | contextStore (reg : Register)
  | contextLoad (reg : Register)
  deriving DecidableEq, Repr

/-- The class code of a variant (R56, D4). -/
def Instr.classCode : Instr → Nat
  | .clearDisplay => 0
  | .ret => 1
  | .jump _ => 2
  | .call _ => 3
  | .skipEqualConstant _ _ => 4
  | .skipNotEqualConstant _ _ => 5
  | .skipEqualRegister _ _ => 6
  | .loadConstant _ _ => 7
  | .addConstant _ _ => 8
  | .copy _ _ => 9
  | .or _ _ => 10
  | .and _ _ => 11
  | .xor _ _ => 12
  | .add _ _ => 13
  | .sub _ _ => 14
  | .shiftRight _ _ => 15
  | .minusSub _ _ => 16
  | .shiftLeft _ _ => 17
  | .skipNotEqualRegister _ _ => 18
  | .loadAddressConstant _ => 19
  | .jumpWithOffset _ => 20
  | .rand _ _ => 21
  | .draw _ _ _ => 22
  | .skipKeyEqual _ => 23
  | .skipKeyNotEqual _ => 24
  | .loadDelayTimer _ => 25
  | .waitKey _ => 26
  | .storeDelayTimer _ => 27
  | .storeBeepTimer _ => 28
  | .addAddress _ => 29
  | .loadSpriteAddress _ => 30
  | .storeBCD _ => 31
  | .contextStore _ => 32
  | .contextLoad _ => 33

end Sys2Proof
end

