-- ==== Sys2Proof/Machine/Ops.lean ====
section
/-! DEFINITION. The named operations over memory, registers, stack, pc and the collaborators' ports: the primitives
of spec/00_scope.md R9. -/

namespace Sys2Proof.Machine

/-! ## Memory as data (R30, R31) -/

/-- The byte at an address; 0 where nothing is listed (R22). -/
def Memory.read : Memory → Nat → Byte
  | [], _ => 0
  | (b, u) :: m, a => if b = a then u else Memory.read m a

/-- The list without any entry for `a`. -/
def Memory.erase (m : Memory) (a : Nat) : Memory := m.filter (fun c => c.1 != a)

/-- `(a, u)` put before the first entry with a higher address. -/
def Memory.insert : Memory → Nat → Byte → Memory
  | [], a, u => [(a, u)]
  | (b, w) :: m, a, u => if a < b then (a, u) :: (b, w) :: m else (b, w) :: Memory.insert m a u

/-- `mem[a] <- u`, in canonical form: a byte equal to 0 is not listed. -/
def Memory.write (m : Memory) (a : Nat) (u : Byte) : Memory :=
  if u = 0 then Memory.erase m a else Memory.insert (Memory.erase m a) a u

/-- `mem[base + k] <- bytes[k]`, the first byte first. -/
def Memory.writeBlock : Memory → Nat → List Byte → Memory
  | m, _, [] => m
  | m, base, u :: us => Memory.writeBlock (Memory.write m base u) (base + 1) us

/-- `[mem[base], ..., mem[base + n - 1]]`. -/
def Memory.readBlock (m : Memory) : Nat → Nat → List Byte
  | _, 0 => []
  | base, n + 1 => Memory.read m base :: Memory.readBlock m (base + 1) n

/-- The memory that holds the bytes from `base` up and 0 elsewhere. -/
def Memory.ofBytes : Nat → List Byte → Memory
  | _, [] => []
  | base, u :: us =>
    if u = 0 then Memory.ofBytes (base + 1) us else (base, u) :: Memory.ofBytes (base + 1) us

/-- The canonical form: addresses strictly rising, from `low` up and below `MEM_SIZE`, no byte equal to 0. -/
def Memory.wfFrom : Nat → Memory → Bool
  | _, [] => true
  | low, (a, u) :: m => decide (low ≤ a) && decide (a < hardware.memSize) && u != 0 && Memory.wfFrom (a + 1) m

/-- The memory is in its canonical form and holds only addresses 0 to 0xFFF (R23 (a)). -/
def Memory.wf (m : Memory) : Bool := Memory.wfFrom 0 m

/-! ## Faults (R207): a fault saves nothing, changes nothing and goes nowhere -/

/-- `raise F(info)` (R9, R207): the step ends in the fault, and no state written by it is kept. -/
def raise (f : Fault) : Result := .fault f

/-! ## Memory accesses (R36, R37) -/

/-- `MemRead(addr, 1)` (R36). -/
def memRead (s : State) (a : Nat) : Except Fault Byte :=
  if a ≤ 0xFFF then .ok (s.mem.read a) else .error (.memoryOutOfBounds a)

/-- `MemWrite(addr, 1, u)` (R37). -/
def memWrite (s : State) (a : Nat) (u : Byte) : Except Fault State :=
  if a ≤ 0xFFF then .ok { s with mem := s.mem.write a u } else .error (.memoryOutOfBounds a)

/-- The byte at an address that has been checked. -/
def State.byteAt (s : State) (a : Nat) : Byte := s.mem.read a

/-- All of the `n` addresses from `base` up are at most 0xFFF (R37: an instruction "checks all of its addresses
before it writes anything"). With `n = 0` nothing is accessed (R163). -/
def inBounds (base n : Nat) : Bool := n == 0 || decide (base + n ≤ hardware.memSize)

/-- The check of the memory instructions: `raise MemoryOutOfBounds(max(I, 0x1000))` unless all `n` addresses from
`base` up exist (R163, R183, R185, R187). -/
def withBounds (base n : Nat) (r : Result) : Result :=
  if inBounds base n then r else raise (.memoryOutOfBounds (max base 0x1000))

/-- Stores bytes from `base` up, addresses checked before. -/
def State.storeBytes (s : State) (base : Nat) (bytes : List Byte) : State :=
  { s with mem := s.mem.writeBlock base bytes }

/-! ## General registers (R11): none is hardwired -/

/-- `V[i]`. -/
def State.getV (s : State) (r : Register) : Byte := s.v[r.index.toNat]'r.index.isLt

/-- `V[i] <- u`. -/
def State.setV (s : State) (r : Register) (u : Byte) : State :=
  { s with v := s.v.set r.index.toNat u r.index.isLt }

/-- `V[k], V[k+1], ... <- bytes`, in that order (R187); indices stay below 16. -/
def writeRegs : Vector Byte 16 → Nat → List Byte → Vector Byte 16
  | v, _, [] => v
  | v, k, u :: us => writeRegs (v.setIfInBounds k u) (k + 1) us

/-- `V[0], V[1], ... <- bytes` (R187). -/
def State.loadRegs (s : State) (bytes : List Byte) : State := { s with v := writeRegs s.v 0 bytes }

/-- VF, the register that doubles as the flag (R12). -/
def regVF : Register := ⟨0xF⟩

/-- `V[0]` (R107). -/
def regV0 : Register := ⟨0x0⟩

/-- The result is written to `V[x]`, then the flag to VF (R158): with x = 15 the flag wins. -/
def State.setResultFlag (s : State) (x : Register) (result flag : Byte) : State :=
  (s.setV x result).setV regVF flag

/-! ## Index register and timers (R14 to R16) -/

/-- `I <- a`. -/
def State.setI (s : State) (a : Word) : State := { s with iReg := a }

/-- `DT <- u`. -/
def State.setDT (s : State) (u : Byte) : State := { s with dt := u }

/-- `ST <- u`. -/
def State.setST (s : State) (u : Byte) : State := { s with st := u }

/-! ## Program counter (R92, R93) -/

/-- `pc <- pc + 2`, the sequential advance (R92). -/
def State.advance (s : State) : State := { s with pc := s.pc + 2 }

/-- `if c then pc <- pc + 4 else pc <- pc + 2`: a taken skip passes over exactly one instruction (R93). -/
def State.skipIf (s : State) (c : Bool) : State := { s with pc := if c then s.pc + 4 else s.pc + 2 }

/-- `pc <- t`: a control transfer is not checked at the transfer (R108). -/
def State.goto (s : State) (t : Word) : State := { s with pc := t }

/-! ## Call stack (R17, R18) -/

/-- The state with these stack entries and this depth. -/
def State.withStack (s : State) (entries : Vector Word 12) (depth : Fin 13) : State :=
  { s with stack := entries, sp := depth }

/-- `stack[SP] <- t; SP <- SP + 1`, or `StackOverflow(pc)` when all 12 entries are live (R105). -/
def pushThen (s : State) (t : Word) (k : State → Result) : Result :=
  if h : s.sp.val < 12 then k (s.withStack (s.stack.set s.sp.val t h) ⟨s.sp.val + 1, by omega⟩)
  else raise (.stackOverflow s.pc)

/-- The entry on top, meaningful when SP is not 0. -/
def State.top (s : State) : Word := s.stack[s.sp.val - 1]'(by omega)

/-- `SP <- SP - 1` and the entry that was on top, or `StackUnderflow(pc)` when the stack is empty; the entry is
left in the array (R101). -/
def popThen (s : State) (k : State → Word → Result) : Result :=
  if s.sp.val = 0 then raise (.stackUnderflow s.pc)
  else k (s.withStack s.stack ⟨s.sp.val - 1, by omega⟩) s.top

/-! ## Collaborators' ports (R219 to R221) -/

/-- A free answer has been taken: the next asking is unrelated (log 2). -/
def State.answered (s : State) : State := { s with asked := s.asked + 1 }

/-- `emit E`: no architectural state changes (R9, R219). -/
def State.emit (s : State) (e : DisplayEvent) : State := { s with display := s.display ++ [e] }

end Sys2Proof.Machine
end

