-- ==== Sys2Proof/Machine/Flags.lean ====
section
/-! DEFINITION. The flag values (spec/45_alu.md R149 to R159): VF receives 0 or 1. -/

namespace Sys2Proof.Machine

/-- A condition as the flag byte. -/
def flagByte (c : Bool) : Byte := if c then 1 else 0

/-- Carry out of bit 7: 1 when the sum passes 255 (R149). -/
def carryFlag (a b : Byte) : Byte := flagByte (decide (a.toNat + b.toNat > 255))

/-- NOT borrow: 1 when the minuend is at least the subtrahend (R151, R155). -/
def notBorrowFlag (minuend subtrahend : Byte) : Byte := flagByte (decide (minuend.toNat ≥ subtrahend.toNat))

/-- The bit a right shift by one moves out: `src AND 1` (R153). -/
def shiftRightFlag (src : Byte) : Byte := src &&& 1

/-- The bit a left shift by one moves out: `src >> 7` (R157). -/
def shiftLeftFlag (src : Byte) : Byte := src >>> 7

/-- A logic result: `V[x] <- result`, then VF <- 0 when `Q_LOGIC_RESETS_VF` (R143, R145, R147, D16). -/
def State.setLogicResult (s : State) (x : Register) (result : Byte) : State :=
  if s.params.logicResetsVF then s.setResultFlag x result 0 else s.setV x result

end Sys2Proof.Machine
end

