-- ==== Sys2Proof/Machine/Operands.lean ====
section
/-! DEFINITION. What the execute rules compute from operands and registers, where it is more than a register. -/

namespace Sys2Proof.Machine

/-- The source of a shift, by `Q_SHIFT_SRC` (R153, R157, D13). -/
def shiftSource (s : State) (x y : Register) : Byte :=
  match s.params.shiftSrc with
  | .vy => s.getV y
  | .vx => s.getV x

/-- The register `JumpWithOffset` adds, by `Q_JUMP_OFFSET_REG`: `V[0]`, or the register named by
`address[11:8]` (R107, D15). -/
def jumpOffsetRegister (s : State) (a : Address) : Register :=
  match s.params.jumpOffsetReg with
  | .v0 => regV0
  | .vx => ⟨a.value.extractLsb' 8 4⟩

/-- The target of `JumpWithOffset`: the sum, not masked (R107). -/
def jumpOffsetTarget (s : State) (a : Address) : Word :=
  a.value.setWidth 16 + (s.getV (jumpOffsetRegister s a)).setWidth 16

/-- `I` after `ContextStore` or `ContextLoad` of `V[0..x]`, by `Q_MEM_INCR_I` (R185, R187, D14). -/
def contextIndex (s : State) (x : Register) : Word :=
  if s.params.memIncrI then s.iReg + x.index.setWidth 16 + 1 else s.iReg

/-- How many bytes `ContextStore` and `ContextLoad` move: x + 1 (R185). -/
def contextCount (x : Register) : Nat := x.index.toNat + 1

/-- The bytes `V[0]` to `V[x]`, `V[0]` first (R185). -/
def contextBytes (s : State) (x : Register) : List Byte := s.v.toList.take (contextCount x)

/-- Where the glyph of the low nibble of a byte is expected: `FONT_BASE + 5 * d` (R181). -/
def spriteAddress (s : State) (u : Byte) : Word :=
  BitVec.ofNat 16 (s.params.fontBase.val + 5 * (u &&& 0x0F).toNat)

/-- Hundreds, tens, ones (R183). -/
def bcdDigits (u : Byte) : List Byte :=
  [BitVec.ofNat 8 (u.toNat / 100), BitVec.ofNat 8 (u.toNat / 10 % 10), BitVec.ofNat 8 (u.toNat % 10)]

end Sys2Proof.Machine
end

