-- ==== Sys2Proof/Machine/Alu.lean ====
section
/-! DEFINITION. The arithmetic and logic family 8XY? (spec/45_alu.md). Both sources are read first, then the result is
written, then the flag (R158). -/

namespace Sys2Proof.Machine

/-- `Copy` (R142). -/
def execCopy (x y : Register) (s : State) : Result := .next (s.setV x (s.getV y)).advance

/-- `Or` (R143). -/
def execOr (x y : Register) (s : State) : Result :=
  .next (s.setLogicResult x (s.getV x ||| s.getV y)).advance

/-- `And` (R145). -/
def execAnd (x y : Register) (s : State) : Result :=
  .next (s.setLogicResult x (s.getV x &&& s.getV y)).advance

/-- `Xor` (R147). -/
def execXor (x y : Register) (s : State) : Result :=
  .next (s.setLogicResult x (s.getV x ^^^ s.getV y)).advance

/-- `Add` (R149). -/
def execAdd (x y : Register) (s : State) : Result :=
  .next (s.setResultFlag x (s.getV x + s.getV y) (carryFlag (s.getV x) (s.getV y))).advance

/-- `Sub` (R151). -/
def execSub (x y : Register) (s : State) : Result :=
  .next (s.setResultFlag x (s.getV x - s.getV y) (notBorrowFlag (s.getV x) (s.getV y))).advance

/-- `ShiftRight` (R153): logical, by one. -/
def execShiftRight (x y : Register) (s : State) : Result :=
  .next (s.setResultFlag x (shiftSource s x y >>> 1) (shiftRightFlag (shiftSource s x y))).advance

/-- `MinusSub` (R155): the reverse subtract. -/
def execMinusSub (x y : Register) (s : State) : Result :=
  .next (s.setResultFlag x (s.getV y - s.getV x) (notBorrowFlag (s.getV y) (s.getV x))).advance

/-- `ShiftLeft` (R157): by one, modulo 256. -/
def execShiftLeft (x y : Register) (s : State) : Result :=
  .next (s.setResultFlag x (shiftSource s x y <<< 1) (shiftLeftFlag (shiftSource s x y))).advance

end Sys2Proof.Machine
end

