-- ==== Sys2Proof/Machine/Constant.lean ====
section
/-! DEFINITION. Constants and random (spec/44_load_add_rand.md). -/

namespace Sys2Proof.Machine

/-- `LoadConstant` (R131). -/
def execLoadConstant (r : Register) (c : Constant8) (s : State) : Result :=
  .next (s.setV r c.value).advance

/-- `AddConstant` (R133): modulo 256, no flag. -/
def execAddConstant (r : Register) (c : Constant8) (s : State) : Result :=
  .next (s.setV r (s.getV r + c.value)).advance

/-- `LoadAddressConstant` (R135). -/
def execLoadAddressConstant (a : Address) (s : State) : Result :=
  .next (s.setI (a.value.setWidth 16)).advance

/-- `Rand` when the random source gives `u` (R137). -/
def randWith (u : Byte) (r : Register) (c : Constant8) (s : State) : Result :=
  .next (s.answered.setV r (u &&& c.value)).advance

/-- `Rand` (R137): the byte is a free value. -/
def execRand (r : Register) (c : Constant8) (s : State) : Result :=
  randWith (Config.drawByte s.asked) r c s

end Sys2Proof.Machine
end

