-- ==== Sys2Proof/Machine/Control.lean ====
section
/-! DEFINITION. Control transfer (spec/42_control_transfer.md). -/

namespace Sys2Proof.Machine

/-- `Return` (R101). -/
def execRet (s : State) : Result := popThen s (fun s' t => .next (s'.goto t))

/-- `Jump` (R103). -/
def execJump (a : Address) (s : State) : Result := .next (s.goto (a.value.setWidth 16))

/-- `Call` (R105): the saved value is the return address itself, pc + 2. -/
def execCall (a : Address) (s : State) : Result :=
  pushThen s (s.pc + 2) (fun s' => .next (s'.goto (a.value.setWidth 16)))

/-- `JumpWithOffset` (R107). -/
def execJumpWithOffset (a : Address) (s : State) : Result := .next (s.goto (jumpOffsetTarget s a))

end Sys2Proof.Machine
end

