-- ==== Sys2Proof/Machine/Display.lean ====
section
/-! DEFINITION. Display instructions (spec/46_display.md): events on the display port, no framebuffer. -/

namespace Sys2Proof.Machine

/-- `ClearDisplay` (R161). -/
def execClearDisplay (s : State) : Result := .next (s.emit .clearScreen).advance

/-- The sprite a `Draw` hands to the display: coordinates and rows read before VF is written (R163). -/
def spriteEvent (x y : Register) (n : Constant4) (s : State) : DisplayEvent :=
  .drawSprite (s.getV x) (s.getV y) (s.mem.readBlock s.iReg.toNat n.value.toNat)

/-- `Draw` when the display answers `bit` (R163): the rows' addresses are checked first; `I` is not changed. -/
def drawWith (bit : BitVec 1) (x y : Register) (n : Constant4) (s : State) : Result :=
  withBounds s.iReg.toNat n.value.toNat
    (.next ((s.answered.emit (spriteEvent x y n s)).setV regVF (bit.setWidth 8)).advance)

/-- `Draw` (R163): the collision bit is a free value, also when n = 0. -/
def execDraw (x y : Register) (n : Constant4) (s : State) : Result :=
  drawWith (Config.drawBit s.asked) x y n s

end Sys2Proof.Machine
end

