-- ==== Sys2Proof/Machine/Misc.lean ====
section
/-! DEFINITION. The FX?? family (spec/47_timer_key_memory.md): timers, key wait, index arithmetic, font, BCD, context. -/

namespace Sys2Proof.Machine

/-- `LoadDelayTimer` (R172). -/
def execLoadDelayTimer (r : Register) (s : State) : Result := .next (s.setV r s.dt).advance

/-- `WaitKey` when the keyboard presents `key`, or nothing (R173). With no key the core holds: no architectural
state changes and pc stays, so the next step asks again (R96, log 4). -/
def waitKeyWith (key : Option (BitVec 4)) (r : Register) (s : State) : Result :=
  match key with
  | some k => .next (s.answered.setV r (k.setWidth 8)).advance
  | none => .next s.answered

/-- `WaitKey` (R173). -/
def execWaitKey (r : Register) (s : State) : Result := waitKeyWith (Config.keyPresented s.asked) r s

/-- `StoreDelayTimer` (R176). -/
def execStoreDelayTimer (r : Register) (s : State) : Result :=
  .next (s.setDT (s.getV r)).advance

/-- `StoreBeepTimer` (R178). -/
def execStoreBeepTimer (r : Register) (s : State) : Result :=
  .next (s.setST (s.getV r)).advance

/-- `AddAddress` (R180): modulo 65536, no flag. -/
def execAddAddress (r : Register) (s : State) : Result :=
  .next (s.setI (s.iReg + (s.getV r).setWidth 16)).advance

/-- `LoadSpriteAddress` (R181). -/
def execLoadSpriteAddress (r : Register) (s : State) : Result :=
  .next (s.setI (spriteAddress s (s.getV r))).advance

/-- `StoreBCD` (R183). -/
def execStoreBCD (r : Register) (s : State) : Result :=
  withBounds s.iReg.toNat 3 (.next (s.storeBytes s.iReg.toNat (bcdDigits (s.getV r))).advance)

/-- `ContextStore` (R185). -/
def execContextStore (x : Register) (s : State) : Result :=
  withBounds s.iReg.toNat (contextCount x)
    (.next ((s.storeBytes s.iReg.toNat (contextBytes s x)).setI (contextIndex s x)).advance)

/-- `ContextLoad` (R187). -/
def execContextLoad (x : Register) (s : State) : Result :=
  withBounds s.iReg.toNat (contextCount x)
    (.next ((s.loadRegs (s.mem.readBlock s.iReg.toNat (contextCount x))).setI (contextIndex s x)).advance)

end Sys2Proof.Machine
end

