-- ==== Sys2Proof/Machine/Skip.lean ====
section
/-! DEFINITION. Conditional skips (spec/43_skip.md). -/

namespace Sys2Proof.Machine

/-- `SkipEqualConstant` (R111). -/
def execSkipEqualConstant (r : Register) (c : Constant8) (s : State) : Result :=
  .next (s.skipIf (s.getV r == c.value))

/-- `SkipNotEqualConstant` (R113). -/
def execSkipNotEqualConstant (r : Register) (c : Constant8) (s : State) : Result :=
  .next (s.skipIf (s.getV r != c.value))

/-- `SkipEqualRegister` (R115). -/
def execSkipEqualRegister (x y : Register) (s : State) : Result :=
  .next (s.skipIf (s.getV x == s.getV y))

/-- `SkipNotEqualRegister` (R117). -/
def execSkipNotEqualRegister (x y : Register) (s : State) : Result :=
  .next (s.skipIf (s.getV x != s.getV y))

/-- `SkipKeyEqual` when the keyboard answers `down` (R119). -/
def skipKeyEqualWith (down : Bool) (s : State) : Result := .next (s.answered.skipIf down)

/-- `SkipKeyEqual` (R119): all 8 bits of `V[reg]` are handed to the keyboard (log 14). -/
def execSkipKeyEqual (r : Register) (s : State) : Result :=
  skipKeyEqualWith (Config.keyDown s.asked (s.getV r)) s

/-- `SkipKeyNotEqual` when the keyboard answers `down` (R121). -/
def skipKeyNotEqualWith (down : Bool) (s : State) : Result := .next (s.answered.skipIf (!down))

/-- `SkipKeyNotEqual` (R121). -/
def execSkipKeyNotEqual (r : Register) (s : State) : Result :=
  skipKeyNotEqualWith (Config.keyDown s.asked (s.getV r)) s

end Sys2Proof.Machine
end

