-- ==== Sys2Proof/Machine/Dispatch.lean ====
section
/-! DEFINITION. One arm per operation variant, in the order of the opcode table (spec/30_encoding.md R56). -/

namespace Sys2Proof.Machine

def exec (i : Instr) (s : State) : Host.Outcome State Fault Refusal :=
  match i with
  | .clearDisplay => Sys2Proof.Machine.execClearDisplay s
  | .ret => Sys2Proof.Machine.execRet s
  | .jump a => Sys2Proof.Machine.execJump a s
  | .call a => Sys2Proof.Machine.execCall a s
  | .skipEqualConstant r c => Sys2Proof.Machine.execSkipEqualConstant r c s
  | .skipNotEqualConstant r c => Sys2Proof.Machine.execSkipNotEqualConstant r c s
  | .skipEqualRegister x y => Sys2Proof.Machine.execSkipEqualRegister x y s
  | .loadConstant r c => Sys2Proof.Machine.execLoadConstant r c s
  | .addConstant r c => Sys2Proof.Machine.execAddConstant r c s
  | .copy x y => Sys2Proof.Machine.execCopy x y s
  | .or x y => Sys2Proof.Machine.execOr x y s
  | .and x y => Sys2Proof.Machine.execAnd x y s
  | .xor x y => Sys2Proof.Machine.execXor x y s
  | .add x y => Sys2Proof.Machine.execAdd x y s
  | .sub x y => Sys2Proof.Machine.execSub x y s
  | .shiftRight x y => Sys2Proof.Machine.execShiftRight x y s
  | .minusSub x y => Sys2Proof.Machine.execMinusSub x y s
  | .shiftLeft x y => Sys2Proof.Machine.execShiftLeft x y s
  | .skipNotEqualRegister x y => Sys2Proof.Machine.execSkipNotEqualRegister x y s
  | .loadAddressConstant a => Sys2Proof.Machine.execLoadAddressConstant a s
  | .jumpWithOffset a => Sys2Proof.Machine.execJumpWithOffset a s
  | .rand r c => Sys2Proof.Machine.execRand r c s
  | .draw x y n => Sys2Proof.Machine.execDraw x y n s
  | .skipKeyEqual r => Sys2Proof.Machine.execSkipKeyEqual r s
  | .skipKeyNotEqual r => Sys2Proof.Machine.execSkipKeyNotEqual r s
  | .loadDelayTimer r => Sys2Proof.Machine.execLoadDelayTimer r s
  | .waitKey r => Sys2Proof.Machine.execWaitKey r s
  | .storeDelayTimer r => Sys2Proof.Machine.execStoreDelayTimer r s
  | .storeBeepTimer r => Sys2Proof.Machine.execStoreBeepTimer r s
  | .addAddress r => Sys2Proof.Machine.execAddAddress r s
  | .loadSpriteAddress r => Sys2Proof.Machine.execLoadSpriteAddress r s
  | .storeBCD r => Sys2Proof.Machine.execStoreBCD r s
  | .contextStore x => Sys2Proof.Machine.execContextStore x s
  | .contextLoad x => Sys2Proof.Machine.execContextLoad x s

end Sys2Proof.Machine
end

