-- ==== Sys2Proof/WellFormed.lean ====
section
/-! DEFINITION. Operand validation (spec/30_encoding.md R53, R54): from a plain number to an operand, refusing one
outside the operand type's range. The operand types are bounded, as R53 asks, so an out-of-range operand of
an `Instr` cannot be written down; the checks stand where a number enters. -/

namespace Sys2Proof

/-- An `Address` is 0 to 0xFFF. -/
def Address.ofNat? (n : Nat) : Option Address :=
  if n ≤ 0xFFF then some ⟨BitVec.ofNat 12 n⟩ else none

/-- A `Constant8` is 0 to 0xFF. -/
def Constant8.ofNat? (n : Nat) : Option Constant8 :=
  if n ≤ 0xFF then some ⟨BitVec.ofNat 8 n⟩ else none

/-- A `Constant4` is 0 to 0xF. -/
def Constant4.ofNat? (n : Nat) : Option Constant4 :=
  if n ≤ 0xF then some ⟨BitVec.ofNat 4 n⟩ else none

/-- A `Register` is 0 to 0xF. -/
def Register.ofNat? (n : Nat) : Option Register :=
  if n ≤ 0xF then some ⟨BitVec.ofNat 4 n⟩ else none

/-- An operand written down with its type and a plain number, as in `Address(0x3AB)` (R63). -/
inductive RawOperand where
  | address (n : Nat)
  | constant8 (n : Nat)
  | constant4 (n : Nat)
  | register (n : Nat)
  deriving DecidableEq, Repr

/-- The operand is within its type's range (R53). -/
def RawOperand.wf : RawOperand → Bool
  | .address n => (Address.ofNat? n).isSome
  | .constant8 n => (Constant8.ofNat? n).isSome
  | .constant4 n => (Constant4.ofNat? n).isSome
  | .register n => (Register.ofNat? n).isSome

/-- The operands of an operation, in the order of R56. -/
def Instr.operands : Instr → List RawOperand
  | .clearDisplay | .ret => []
  | .jump a | .call a | .loadAddressConstant a | .jumpWithOffset a => [.address a.value.toNat]
  | .skipEqualConstant r c | .skipNotEqualConstant r c | .loadConstant r c | .addConstant r c
  | .rand r c => [.register r.index.toNat, .constant8 c.value.toNat]
  | .skipEqualRegister x y | .copy x y | .or x y | .and x y | .xor x y | .add x y | .sub x y
  | .shiftRight x y | .minusSub x y | .shiftLeft x y | .skipNotEqualRegister x y =>
    [.register x.index.toNat, .register y.index.toNat]
  | .draw x y n => [.register x.index.toNat, .register y.index.toNat, .constant4 n.value.toNat]
  | .skipKeyEqual r | .skipKeyNotEqual r | .loadDelayTimer r | .waitKey r | .storeDelayTimer r
  | .storeBeepTimer r | .addAddress r | .loadSpriteAddress r | .storeBCD r | .contextStore r
  | .contextLoad r => [.register r.index.toNat]

/-- Every operand is within its type's range: "the decoder must never construct an operand outside that range"
(R53). -/
def Instr.wf (i : Instr) : Bool := i.operands.all RawOperand.wf

end Sys2Proof
end

