-- ==== Sys2Proof/Decode.lean ====
section
/-! DEFINITION. The instruction decoder (spec/40_decoder.md), the opcode map it is judged by
(spec/30_encoding.md R56), the encoder (R66) and the port-level block (R79). -/

namespace Sys2Proof

/-! ## The six extraction primitives (R51) -/

def leadingNibble (w : Word) : BitVec 4 := w.extractLsb' 12 4
def secondNibble (w : Word) : BitVec 4 := w.extractLsb' 8 4
def thirdNibble (w : Word) : BitVec 4 := w.extractLsb' 4 4
def lastNibble (w : Word) : BitVec 4 := w.extractLsb' 0 4
def lastByte (w : Word) : Byte := w.extractLsb' 0 8
def addressField (w : Word) : BitVec 12 := w.extractLsb' 0 12

/-- Operand X, a `Register` (R54). -/
def operandX (w : Word) : Register := ⟨secondNibble w⟩
/-- Operand Y, a `Register` (R54). -/
def operandY (w : Word) : Register := ⟨thirdNibble w⟩
/-- Operand N, a `Constant4` (R54). -/
def operandN (w : Word) : Constant4 := ⟨lastNibble w⟩
/-- Operand NN, a `Constant8` (R54). -/
def operandNN (w : Word) : Constant8 := ⟨lastByte w⟩
/-- Operand NNN, an `Address` (R54). -/
def operandNNN (w : Word) : Address := ⟨addressField w⟩

/-! ## Decode (R70 to R77, R82) -/

/-- Leading nibble 8: sub-dispatch on the last nibble (R74). -/
def decodeAlu (n : BitVec 4) (x y : Register) : Option Instr :=
  match n with
  | 0x0#4 => some (.copy x y)
  | 0x1#4 => some (.or x y)
  | 0x2#4 => some (.and x y)
  | 0x3#4 => some (.xor x y)
  | 0x4#4 => some (.add x y)
  | 0x5#4 => some (.sub x y)
  | 0x6#4 => some (.shiftRight x y)
  | 0x7#4 => some (.minusSub x y)
  | 0xE#4 => some (.shiftLeft x y)
  | _ => none

/-- Leading nibble E: sub-dispatch on the whole last byte (R75). -/
def decodeKey (kk : Byte) (x : Register) : Option Instr :=
  match kk with
  | 0x9E#8 => some (.skipKeyEqual x)
  | 0xA1#8 => some (.skipKeyNotEqual x)
  | _ => none

/-- Leading nibble F: sub-dispatch on the whole last byte (R76). -/
def decodeMisc (kk : Byte) (x : Register) : Option Instr :=
  match kk with
  | 0x07#8 => some (.loadDelayTimer x)
  | 0x0A#8 => some (.waitKey x)
  | 0x15#8 => some (.storeDelayTimer x)
  | 0x18#8 => some (.storeBeepTimer x)
  | 0x1E#8 => some (.addAddress x)
  | 0x29#8 => some (.loadSpriteAddress x)
  | 0x33#8 => some (.storeBCD x)
  | 0x55#8 => some (.contextStore x)
  | 0x65#8 => some (.contextLoad x)
  | _ => none

/-- Step 2: dispatch on the leading nibble (R72). The match over the sixteen values of a nibble is exhaustive,
so the fallback of R77 is the arm of nibble 0. -/
def decodeDispatch (w : Word) : Option Instr :=
  match leadingNibble w with
  | 0x1#4 => some (.jump (operandNNN w))
  | 0x2#4 => some (.call (operandNNN w))
  | 0x3#4 => some (.skipEqualConstant (operandX w) (operandNN w))
  | 0x4#4 => some (.skipNotEqualConstant (operandX w) (operandNN w))
  | 0x5#4 => if lastNibble w = 0 then some (.skipEqualRegister (operandX w) (operandY w)) else none
  | 0x6#4 => some (.loadConstant (operandX w) (operandNN w))
  | 0x7#4 => some (.addConstant (operandX w) (operandNN w))
  | 0x8#4 => decodeAlu (lastNibble w) (operandX w) (operandY w)
  | 0x9#4 => if lastNibble w = 0 then some (.skipNotEqualRegister (operandX w) (operandY w)) else none
  | 0xA#4 => some (.loadAddressConstant (operandNNN w))
  | 0xB#4 => some (.jumpWithOffset (operandNNN w))
  | 0xC#4 => some (.rand (operandX w) (operandNN w))
  | 0xD#4 => some (.draw (operandX w) (operandY w) (operandN w))
  | 0xE#4 => decodeKey (lastByte w) (operandX w)
  | 0xF#4 => decodeMisc (lastByte w) (operandX w)
  | _ => none

/-- `decode(w)` (R82): the operation, or `none` for `Invalid` (R83). The two whole words are compared first
(R71). -/
def decode (w : Word) : Option Instr :=
  if w = 0x00E0#16 then some .clearDisplay
  else if w = 0x00EE#16 then some .ret
  else decodeDispatch w

/-! ## Bytes (R33, R50) -/

/-- The byte at the lower address is the more significant (R33). -/
def wordOfBytes (hi lo : Byte) : Word := hi ++ lo

/-- The byte a word has at the lower of its two addresses. -/
def highByte (w : Word) : Byte := w.extractLsb' 8 8

/-- The byte a word has at the higher of its two addresses. -/
def lowByte (w : Word) : Byte := w.extractLsb' 0 8

/-- Why bytes give no instruction. `truncated`: fewer than the two bytes of a word (R50). `invalidOpcode`: the
word matches no row; nothing more is reported (R58, R83). -/
inductive DecodeError where
  | truncated
  | invalidOpcode
  deriving DecidableEq, Repr

/-- The first instruction of a list of bytes, and the bytes after it. -/
def decodeBytes : List Byte → Except DecodeError (Instr × List Byte)
  | hi :: lo :: rest =>
    match decode (wordOfBytes hi lo) with
    | some i => .ok (i, rest)
    | none => .error .invalidOpcode
  | _ => .error .truncated

/-- The two bytes, in memory order, of an instruction whose bits are `w` in the table's numbering, with the
bits from `nbits` up zero. -/
def tableWordBytes (nbits w : Nat) : List Byte :=
  [highByte (BitVec.ofNat 16 (w % 2 ^ nbits)), lowByte (BitVec.ofNat 16 (w % 2 ^ nbits))]

/-- The decoder's reading of an instruction whose bits are `w` in the table's numbering. -/
def decodeTableWord (nbits w : Nat) : Option Instr :=
  match decodeBytes (tableWordBytes nbits w) with
  | .ok (i, _) => some i
  | .error _ => none

/-! ## Encode (R66) -/

/-- Format `A`: `match | NNN`. -/
def encodeA (bits : Word) (a : Address) : Word := bits ||| a.value.setWidth 16
/-- Format `RC`: `match | (X << 8) | NN`. -/
def encodeRC (bits : Word) (x : Register) (c : Constant8) : Word :=
  bits ||| (x.index.setWidth 16 <<< 8) ||| c.value.setWidth 16
/-- Format `RR`: `match | (X << 8) | (Y << 4)`. -/
def encodeRR (bits : Word) (x y : Register) : Word :=
  bits ||| (x.index.setWidth 16 <<< 8) ||| (y.index.setWidth 16 <<< 4)
/-- Format `RRN`: `match | (X << 8) | (Y << 4) | N`. -/
def encodeRRN (bits : Word) (x y : Register) (n : Constant4) : Word :=
  bits ||| (x.index.setWidth 16 <<< 8) ||| (y.index.setWidth 16 <<< 4) ||| n.value.setWidth 16
/-- Format `R`: `match | (X << 8)`. -/
def encodeR (bits : Word) (x : Register) : Word := bits ||| (x.index.setWidth 16 <<< 8)

/-- The word of an operation (R66). -/
def encode : Instr → Word
  | .clearDisplay => 0x00E0
  | .ret => 0x00EE
  | .jump a => encodeA 0x1000 a
  | .call a => encodeA 0x2000 a
  | .skipEqualConstant r c => encodeRC 0x3000 r c
  | .skipNotEqualConstant r c => encodeRC 0x4000 r c
  | .skipEqualRegister x y => encodeRR 0x5000 x y
  | .loadConstant r c => encodeRC 0x6000 r c
  | .addConstant r c => encodeRC 0x7000 r c
  | .copy x y => encodeRR 0x8000 x y
  | .or x y => encodeRR 0x8001 x y
  | .and x y => encodeRR 0x8002 x y
  | .xor x y => encodeRR 0x8003 x y
  | .add x y => encodeRR 0x8004 x y
  | .sub x y => encodeRR 0x8005 x y
  | .shiftRight x y => encodeRR 0x8006 x y
  | .minusSub x y => encodeRR 0x8007 x y
  | .shiftLeft x y => encodeRR 0x800E x y
  | .skipNotEqualRegister x y => encodeRR 0x9000 x y
  | .loadAddressConstant a => encodeA 0xA000 a
  | .jumpWithOffset a => encodeA 0xB000 a
  | .rand r c => encodeRC 0xC000 r c
  | .draw x y n => encodeRRN 0xD000 x y n
  | .skipKeyEqual r => encodeR 0xE09E r
  | .skipKeyNotEqual r => encodeR 0xE0A1 r
  | .loadDelayTimer r => encodeR 0xF007 r
  | .waitKey r => encodeR 0xF00A r
  | .storeDelayTimer r => encodeR 0xF015 r
  | .storeBeepTimer r => encodeR 0xF018 r
  | .addAddress r => encodeR 0xF01E r
  | .loadSpriteAddress r => encodeR 0xF029 r
  | .storeBCD r => encodeR 0xF033 r
  | .contextStore r => encodeR 0xF055 r
  | .contextLoad r => encodeR 0xF065 r

/-! ## The opcode map as data (R56), independent of the decoder -/

/-- A row: a word `w` selects it when `(w & mask) == match` (R56). -/
structure OpcodeRow where
  classCode : Nat
  mask : Word
  bits : Word
  deriving DecidableEq, Repr

/-- `(w & mask) == match`. -/
def rowSelects (r : OpcodeRow) (w : Word) : Bool := w &&& r.mask == r.bits

/-- Rows of leading nibbles 0 to 7. -/
def opcodeRowsLow : List OpcodeRow :=
  [⟨0, 0xFFFF, 0x00E0⟩, ⟨1, 0xFFFF, 0x00EE⟩, ⟨2, 0xF000, 0x1000⟩, ⟨3, 0xF000, 0x2000⟩,
   ⟨4, 0xF000, 0x3000⟩, ⟨5, 0xF000, 0x4000⟩, ⟨6, 0xF00F, 0x5000⟩, ⟨7, 0xF000, 0x6000⟩,
   ⟨8, 0xF000, 0x7000⟩]

/-- Rows of leading nibble 8. -/
def opcodeRowsAlu : List OpcodeRow :=
  [⟨9, 0xF00F, 0x8000⟩, ⟨10, 0xF00F, 0x8001⟩, ⟨11, 0xF00F, 0x8002⟩, ⟨12, 0xF00F, 0x8003⟩,
   ⟨13, 0xF00F, 0x8004⟩, ⟨14, 0xF00F, 0x8005⟩, ⟨15, 0xF00F, 0x8006⟩, ⟨16, 0xF00F, 0x8007⟩,
   ⟨17, 0xF00F, 0x800E⟩]

/-- Rows of leading nibbles 9 to F. -/
def opcodeRowsHigh : List OpcodeRow :=
  [⟨18, 0xF00F, 0x9000⟩, ⟨19, 0xF000, 0xA000⟩, ⟨20, 0xF000, 0xB000⟩, ⟨21, 0xF000, 0xC000⟩,
   ⟨22, 0xF000, 0xD000⟩, ⟨23, 0xF0FF, 0xE09E⟩, ⟨24, 0xF0FF, 0xE0A1⟩, ⟨25, 0xF0FF, 0xF007⟩,
   ⟨26, 0xF0FF, 0xF00A⟩, ⟨27, 0xF0FF, 0xF015⟩, ⟨28, 0xF0FF, 0xF018⟩, ⟨29, 0xF0FF, 0xF01E⟩,
   ⟨30, 0xF0FF, 0xF029⟩, ⟨31, 0xF0FF, 0xF033⟩, ⟨32, 0xF0FF, 0xF055⟩, ⟨33, 0xF0FF, 0xF065⟩]

/-- The 34 rows of R56. -/
def opcodeTable : List OpcodeRow := opcodeRowsLow ++ opcodeRowsAlu ++ opcodeRowsHigh

/-- The row of an operation's variant. -/
def rowOf (i : Instr) : Option OpcodeRow := opcodeTable[i.classCode]?

/-! ## The port-level block (R79, R84, D4) -/

/-- The outputs of the decoder block. -/
structure DecoderPorts where
  valid : BitVec 1
  cls : BitVec 6
  x : BitVec 4
  y : BitVec 4
  n : BitVec 4
  kk : BitVec 8
  nnn : BitVec 12
  deriving DecidableEq, Repr

/-- The class code of a word: the code of the first row that selects it, 63 where none does. -/
def classOfWord (w : Word) : Nat :=
  match opcodeTable.find? (rowSelects · w) with
  | some r => r.classCode
  | none => 63

/-- The combinational block: outputs as a function of the input word only; the fields are wired for every word. -/
def decoderBlock (w : Word) : DecoderPorts :=
  { valid := if opcodeTable.any (rowSelects · w) then 1 else 0
    cls := BitVec.ofNat 6 (classOfWord w)
    x := secondNibble w
    y := thirdNibble w
    n := lastNibble w
    kk := lastByte w
    nnn := addressField w }

/-- "The variant numbered `class` applied to its fields" (R79). -/
def variantOfClass (cls : Nat) (x y : Register) (n : Constant4) (kk : Constant8) (nnn : Address) :
    Option Instr :=
  match cls with
  | 0 => some .clearDisplay
  | 1 => some .ret
  | 2 => some (.jump nnn)
  | 3 => some (.call nnn)
  | 4 => some (.skipEqualConstant x kk)
  | 5 => some (.skipNotEqualConstant x kk)
  | 6 => some (.skipEqualRegister x y)
  | 7 => some (.loadConstant x kk)
  | 8 => some (.addConstant x kk)
  | 9 => some (.copy x y)
  | 10 => some (.or x y)
  | 11 => some (.and x y)
  | 12 => some (.xor x y)
  | 13 => some (.add x y)
  | 14 => some (.sub x y)
  | 15 => some (.shiftRight x y)
  | 16 => some (.minusSub x y)
  | 17 => some (.shiftLeft x y)
  | 18 => some (.skipNotEqualRegister x y)
  | 19 => some (.loadAddressConstant nnn)
  | 20 => some (.jumpWithOffset nnn)
  | 21 => some (.rand x kk)
  | 22 => some (.draw x y n)
  | 23 => some (.skipKeyEqual x)
  | 24 => some (.skipKeyNotEqual x)
  | 25 => some (.loadDelayTimer x)
  | 26 => some (.waitKey x)
  | 27 => some (.storeDelayTimer x)
  | 28 => some (.storeBeepTimer x)
  | 29 => some (.addAddress x)
  | 30 => some (.loadSpriteAddress x)
  | 31 => some (.storeBCD x)
  | 32 => some (.contextStore x)
  | 33 => some (.contextLoad x)
  | _ => none

/-- The abstract result recovered from the ports: `Invalid` if `valid` = 0, else the variant (R79). -/
def instrOfPorts (p : DecoderPorts) : Option Instr :=
  if p.valid = 0 then none
  else variantOfClass p.cls.toNat ⟨p.x⟩ ⟨p.y⟩ ⟨p.n⟩ ⟨p.kk⟩ ⟨p.nnn⟩

end Sys2Proof
end

