-- ==== Sys2Proof/Machine/Fetch.lean ====
section
/-! DEFINITION. Fetch and decode (spec/41_step_cycle.md R91, R92, R94). -/

namespace Sys2Proof.Machine

/-- The core may fetch only when 0x200 <= pc <= 0xFFE (R91). -/
def fetchable (pc : Word) : Bool := decide (0x200 ≤ pc.toNat ∧ pc.toNat ≤ 0xFFE)

/-- `MemRead(a, 2)`: the byte at the lower address is the more significant (R33, R36). -/
def memRead2 (s : State) (a : Nat) : Except Fault Word :=
  match memRead s a with
  | .error f => .error f
  | .ok hi =>
    match memRead s (a + 1) with
    | .error f => .error f
    | .ok lo => .ok (wordOfBytes hi lo)

/-- The word at pc (R91), or the fault of an out-of-range pc, in which case nothing is read. -/
def fetch (s : State) : Except Fault Word :=
  if fetchable s.pc then memRead2 s s.pc.toNat else .error (.pcOutOfRange s.pc)

/-- Fetch and decode: the instruction at pc, or `PcOutOfRange`, or `InvalidOpcode(pc, w)` (R92, R94, R209). -/
def fetchInstr (s : State) : Except Fault Instr :=
  match fetch s with
  | .error f => .error f
  | .ok w =>
    match decode w with
    | some i => .ok i
    | none => .error (.invalidOpcode s.pc w)

/-- The state with a word stored big-endian at an address. -/
def storeWord (s : State) (a : Nat) (w : Word) : State := s.storeBytes a [highByte w, lowByte w]

/-- The state with two bytes stored where the next fetch reads; a pc no fetch is allowed at is first set to the
entry point 0x200 (log 11). -/
def placeAtFetch (s : State) (bytes : List Byte) : State :=
  if fetchable s.pc then s.storeBytes s.pc.toNat bytes
  else ({ s with pc := 0x200 } : State).storeBytes 0x200 bytes

end Sys2Proof.Machine
end

