-- ==== Sys2Proof/Machine/Timer.lean ====
section
/-! DEFINITION. The timer-tick agent (spec/41_step_cycle.md R97, R98) and whose turn it is. A tick is a step of its own
and touches only DT and ST. -/

namespace Sys2Proof.Machine

/-- One tick of one timer: down by one, and a timer at 0 stays at 0 (R97). -/
def tickTimer (u : Byte) : Byte := if u = 0 then 0 else u - 1

/-- One step of the tick agent (R97). -/
def tick (s : State) : State := { s with dt := tickTimer s.dt, st := tickTimer s.st }

/-- Some timer is above 0, so that a tick changes something. -/
def timerRuns (s : State) : Bool := s.dt != 0 || s.st != 0

/-- How many core steps are left before the next tick: what is left of a number drawn earlier, else a free number
(R97, log 3). -/
def stepsLeft (s : State) : Nat := s.untilTick.getD (Config.tickGap s.asked)

/-- It is the tick agent's turn (R98): a timer runs and no core step is left before the next tick. With both timers at
0 a tick changes nothing and is not counted as a step (log 3). -/
def tickDue (s : State) : Bool := timerRuns s && stepsLeft s == 0

/-- The tick agent's turn: one tick, after which the number of core steps before the next is open again (log 3). -/
def tickTurn (s : State) : State := { (tick s).answered with untilTick := none }

/-- The core's turn begins. While a timer runs, one core step fewer is left before the next tick. With both timers at 0
ticks may come and go unseen, so the number is open again (weak fairness only, R97, D22, log 3). -/
def coreTurn (s : State) : State :=
  match timerRuns s, s.untilTick with
  | false, _ => { s with untilTick := none }
  | true, some n => { s with untilTick := some (n - 1) }
  | true, none => { s.answered with untilTick := some (Config.tickGap s.asked - 1) }

/-- The state in which the next step is the core's: a tick that is due is put off by one core step (log 11). -/
def giveCoreTurn (s : State) : State := if tickDue s then { s with untilTick := some 1 } else s

end Sys2Proof.Machine
end

