-- ==== Sys2Proof/Machine/Step.lean ====
section
/-! DEFINITION. The step (spec/41_step_cycle.md R92, R97, R98): a tick, or one step of the core. -/

namespace Sys2Proof.Machine

/-- One step of the core (R92): fetch, decode, execute. -/
def coreStep (s : State) : Host.Outcome State Fault Refusal :=
  match fetchInstr s with
  | .error f => raise f
  | .ok i => exec i s

/-- One step of the machine: a tick when it is the tick agent's turn, else one step of the core (R98). -/
def step (s : State) : Host.Outcome State Fault Refusal :=
  if tickDue s then .next (tickTurn s) else coreStep (coreTurn s)

/-- The state with an instruction of the table's numbering stored where `step` fetches next. -/
def State.withFetchWord (s : State) (nbits w : Nat) : State := placeAtFetch (giveCoreTurn s) (tableWordBytes nbits w)

end Sys2Proof.Machine
end

