-- ==== Sys2Proof/Machine/Load.lean ====
section
/-! DEFINITION. The load operation, which is the reset of this hardware (spec/70_reset_and_hazards.md R230 to R236). -/

namespace Sys2Proof.Machine

/-- The state `load` builds from an image that fits (R230). -/
def loadedState (image : List Byte) : State :=
  { State.reset with mem := Memory.ofBytes hardware.loadAddr image }

/-- `load(image)` (R230): the length is checked before any byte is copied (R231); a failed load gives no state
(R204). -/
def load (image : List Byte) : Result :=
  if image.length > hardware.maxImage then raise (.imageTooLarge image.length) else .next (loadedState image)

/-- The platform's liberty before the first step (R99, R236): sixteen 5-byte glyphs at `FONT_BASE`. The glyph bytes
are given by no source; they are an argument. Log 16. -/
def platformWriteFont (glyphs : Vector Byte 80) (s : State) : State :=
  s.storeBytes s.params.fontBase.val glyphs.toList

end Sys2Proof.Machine
end

