-- ==== Sys2Proof/Safety.lean ====
section
/-! DEFINITION. The terms claims use: the error codes (spec/60 R200), final states (spec/41 R95), which state an
instruction may change (spec/10 R24), and the machine's invariant (spec/10 R23). -/

namespace Sys2Proof.Machine

/-! ## Error kinds and their codes (R200, D9) -/

/-- The seven kinds of R200. `ioFailure` happens before the hardware exists and has no transition (R203). -/
inductive ErrorKind where
  | invalidOpcode
  | imageTooLarge
  | ioFailure
  | pcOutOfRange
  | stackOverflow
  | stackUnderflow
  | memoryOutOfBounds
  deriving DecidableEq, Repr

/-- The code of a kind (R200). -/
def errorCode : ErrorKind → Nat
  | .invalidOpcode => 1
  | .imageTooLarge => 2
  | .ioFailure => 3
  | .pcOutOfRange => 4
  | .stackOverflow => 5
  | .stackUnderflow => 6
  | .memoryOutOfBounds => 7

/-- The kind of a fault. -/
def faultKind : Fault → ErrorKind
  | .pcOutOfRange _ => .pcOutOfRange
  | .invalidOpcode _ _ => .invalidOpcode
  | .stackOverflow _ => .stackOverflow
  | .stackUnderflow _ => .stackUnderflow
  | .memoryOutOfBounds _ => .memoryOutOfBounds
  | .imageTooLarge _ => .imageTooLarge

/-! ## Sizes (R5) -/

/-- The width of a bit vector. -/
def widthOf {n : Nat} (_ : BitVec n) : Nat := n

/-! ## Ticks one by one (R97) -/

/-- `n` steps of the tick agent, one after the other. -/
def tickTimes : Nat → State → State
  | 0, s => s
  | n + 1, s => tickTimes n (tick s)

/-! ## Runs -/

/-- An infinite run of the machine: no step of it faults. -/
def isRun (r : Nat → State) : Prop := ∀ n, step (r n) = .next (r (n + 1))

/-! ## The end of a run (R95) -/

/-- A state is final when the core may fetch and the word at pc is a jump to pc. -/
def isFinal (s : State) : Bool :=
  match fetchInstr s with
  | .ok (.jump a) => a.value.setWidth 16 == s.pc
  | _ => false

/-! ## What changes and what does not -/

/-- The parts of the state. -/
inductive StatePart where
  | mem | v | dt | st | pc | iReg | stack | sp | params | asked | untilTick | display
  deriving DecidableEq, Repr

/-- The part is the same in both states; memory byte by byte, registers one by one. -/
def samePart : StatePart → State → State → Prop
  | .mem, s, t => ∀ a, t.mem.read a = s.mem.read a
  | .v, s, t => ∀ r, t.getV r = s.getV r
  | .dt, s, t => t.dt = s.dt
  | .st, s, t => t.st = s.st
  | .pc, s, t => t.pc = s.pc
  | .iReg, s, t => t.iReg = s.iReg
  | .stack, s, t => t.stack = s.stack
  | .sp, s, t => t.sp = s.sp
  | .params, s, t => t.params = s.params
  | .asked, s, t => t.asked = s.asked
  | .untilTick, s, t => t.untilTick = s.untilTick
  | .display, s, t => t.display = s.display

/-- Every part not listed is the same in `t` as in `s`. -/
def changesOnly (parts : List StatePart) (s t : State) : Prop := ∀ p, p ∉ parts → samePart p s t

/-- The access table's column "writes" (R24), for the parts that are not registers; `pc`, written by every
instruction, is listed too, and so are the port's events and the count of free answers. -/
def mayWrite (p : Params) : Instr → List StatePart
  | .clearDisplay => [.pc, .display]
  | .ret => [.pc, .sp]
  | .jump _ | .jumpWithOffset _ => [.pc]
  | .call _ => [.pc, .stack, .sp]
  | .skipEqualConstant _ _ | .skipNotEqualConstant _ _ | .skipEqualRegister _ _
  | .skipNotEqualRegister _ _ => [.pc]
  | .skipKeyEqual _ | .skipKeyNotEqual _ => [.pc, .asked]
  | .loadConstant _ _ | .addConstant _ _ | .copy _ _ | .or _ _ | .and _ _ | .xor _ _ | .add _ _
  | .sub _ _ | .shiftRight _ _ | .minusSub _ _ | .shiftLeft _ _ | .loadDelayTimer _ => [.pc, .v]
  | .loadAddressConstant _ | .addAddress _ | .loadSpriteAddress _ => [.pc, .iReg]
  | .rand _ _ | .waitKey _ => [.pc, .v, .asked]
  | .draw _ _ _ => [.pc, .v, .asked, .display]
  | .storeDelayTimer _ => [.pc, .dt]
  | .storeBeepTimer _ => [.pc, .st]
  | .storeBCD _ => [.pc, .mem]
  | .contextStore _ => if p.memIncrI then [.pc, .mem, .iReg] else [.pc, .mem]
  | .contextLoad _ => if p.memIncrI then [.pc, .v, .iReg] else [.pc, .v]

/-- The access table's column "writes" (R24), for the registers. -/
def mayWriteReg (p : Params) (r : Register) : Instr → Bool
  | .loadConstant x _ | .addConstant x _ | .copy x _ | .rand x _ | .loadDelayTimer x | .waitKey x => r == x
  | .or x _ | .and x _ | .xor x _ => r == x || (p.logicResetsVF && r == regVF)
  | .add x _ | .sub x _ | .minusSub x _ | .shiftRight x _ | .shiftLeft x _ => r == x || r == regVF
  | .draw _ _ _ => r == regVF
  | .contextLoad x => decide (r.index.toNat ≤ x.index.toNat)
  | .clearDisplay | .ret | .jump _ | .call _ | .skipEqualConstant _ _ | .skipNotEqualConstant _ _
  | .skipEqualRegister _ _ | .skipNotEqualRegister _ _ | .loadAddressConstant _ | .jumpWithOffset _
  | .skipKeyEqual _ | .skipKeyNotEqual _ | .storeDelayTimer _ | .storeBeepTimer _ | .addAddress _
  | .loadSpriteAddress _ | .storeBCD _ | .contextStore _ => false

/-- How many bytes, from `I` up, an instruction stores: `mem[I .. I+2]` or `mem[I .. I+X]` (R24). -/
def storedCount : Instr → Nat
  | .storeBCD _ => 3
  | .contextStore x => contextCount x
  | _ => 0

/-! ## The invariant -/

/-- The memory is canonical and lies in 0 to 0xFFF (R23 (a)); pc never passes 0x10FE, the largest target of
`JumpWithOffset`, so no pc arithmetic wraps (R107, R159); and no stack entry passes 0x1000, the largest return
address (R105). -/
def State.Inv (s : State) : Prop :=
  s.mem.wf = true ∧ s.pc.toNat ≤ 0x10FE ∧ ∀ k (h : k < 12), (s.stack[k]'h).toNat ≤ 0x1000

end Sys2Proof.Machine
end

