-- ==== Sys2Proof/Certificates/Slice0/Obligations.lean ====
section
/-! DEFINITION. The statements for the provers, from the numbered rules of spec/. -/

open Sys2Proof Sys2Proof.Machine

/-! ## Decoder and encoding -/

/-- Words of the document's examples (spec/95 section 1) and of the spec's own vectors (sections 2.2, 2.3), valid
ones and near misses. -/
def Obligations.DocumentedWordsDecode : Prop :=
  decode 0x00E0 = some .clearDisplay ∧ decode 0x00EE = some .ret ∧
  decode 0x13AB = some (.jump ⟨0x3AB⟩) ∧ decode 0x2FA2 = some (.call ⟨0xFA2⟩) ∧
  decode 0x3A1E = some (.skipEqualConstant ⟨0xA⟩ ⟨0x1E⟩) ∧
  decode 0x4A1E = some (.skipNotEqualConstant ⟨0xA⟩ ⟨0x1E⟩) ∧
  decode 0x53A0 = some (.skipEqualRegister ⟨3⟩ ⟨0xA⟩) ∧ decode 0x6A55 = some (.loadConstant ⟨0xA⟩ ⟨0x55⟩) ∧
  decode 0x8AB5 = some (.sub ⟨0xA⟩ ⟨0xB⟩) ∧ decode 0x812E = some (.shiftLeft ⟨1⟩ ⟨2⟩) ∧
  decode 0xAFAB = some (.loadAddressConstant ⟨0xFAB⟩) ∧ decode 0xBFAB = some (.jumpWithOffset ⟨0xFAB⟩) ∧
  decode 0xC23F = some (.rand ⟨2⟩ ⟨0x3F⟩) ∧ decode 0xD123 = some (.draw ⟨1⟩ ⟨2⟩ ⟨3⟩) ∧
  decode 0xE99E = some (.skipKeyEqual ⟨9⟩) ∧ decode 0xF733 = some (.storeBCD ⟨7⟩) ∧
  decode 0x0000 = none ∧ decode 0x00E1 = none ∧ decode 0x5121 = none ∧ decode 0x8AB8 = none ∧
  decode 0xE9E9 = none ∧ decode 0xF700 = none

/-- R66: decode and encode are inverse to each other on valid words and operations, so decode restricted to
valid words is injective. -/
def Obligations.DecodeAndEncodeAreInverse : Prop :=
  (∀ i, decode (encode i) = some i) ∧
  (∀ w i, decode w = some i → encode i = w) ∧
  ∀ w w' i, decode w = some i → decode w' = some i → w = w'

/-- R71 to R76: the dispatch table, for every word written as its four nibbles. -/
def Obligations.DecodeFollowsTheDispatchTable : Prop :=
  ∀ x y n : BitVec 4,
    (decode (0x0#4 ++ x ++ y ++ n) =
      if x = 0 ∧ y = 0xE ∧ n = 0 then some .clearDisplay
      else if x = 0 ∧ y = 0xE ∧ n = 0xE then some .ret else none) ∧
    decode (0x1#4 ++ x ++ y ++ n) = some (.jump ⟨x ++ y ++ n⟩) ∧
    decode (0x2#4 ++ x ++ y ++ n) = some (.call ⟨x ++ y ++ n⟩) ∧
    decode (0x3#4 ++ x ++ y ++ n) = some (.skipEqualConstant ⟨x⟩ ⟨y ++ n⟩) ∧
    decode (0x4#4 ++ x ++ y ++ n) = some (.skipNotEqualConstant ⟨x⟩ ⟨y ++ n⟩) ∧
    (decode (0x5#4 ++ x ++ y ++ n) = if n = 0 then some (.skipEqualRegister ⟨x⟩ ⟨y⟩) else none) ∧
    decode (0x6#4 ++ x ++ y ++ n) = some (.loadConstant ⟨x⟩ ⟨y ++ n⟩) ∧
    decode (0x7#4 ++ x ++ y ++ n) = some (.addConstant ⟨x⟩ ⟨y ++ n⟩) ∧
    (decode (0x8#4 ++ x ++ y ++ n) =
      if n = 0x0 then some (.copy ⟨x⟩ ⟨y⟩) else if n = 0x1 then some (.or ⟨x⟩ ⟨y⟩)
      else if n = 0x2 then some (.and ⟨x⟩ ⟨y⟩) else if n = 0x3 then some (.xor ⟨x⟩ ⟨y⟩)
      else if n = 0x4 then some (.add ⟨x⟩ ⟨y⟩) else if n = 0x5 then some (.sub ⟨x⟩ ⟨y⟩)
      else if n = 0x6 then some (.shiftRight ⟨x⟩ ⟨y⟩) else if n = 0x7 then some (.minusSub ⟨x⟩ ⟨y⟩)
      else if n = 0xE then some (.shiftLeft ⟨x⟩ ⟨y⟩) else none) ∧
    (decode (0x9#4 ++ x ++ y ++ n) = if n = 0 then some (.skipNotEqualRegister ⟨x⟩ ⟨y⟩) else none) ∧
    decode (0xA#4 ++ x ++ y ++ n) = some (.loadAddressConstant ⟨x ++ y ++ n⟩) ∧
    decode (0xB#4 ++ x ++ y ++ n) = some (.jumpWithOffset ⟨x ++ y ++ n⟩) ∧
    decode (0xC#4 ++ x ++ y ++ n) = some (.rand ⟨x⟩ ⟨y ++ n⟩) ∧
    decode (0xD#4 ++ x ++ y ++ n) = some (.draw ⟨x⟩ ⟨y⟩ ⟨n⟩) ∧
    (decode (0xE#4 ++ x ++ y ++ n) =
      if y ++ n = 0x9E#8 then some (.skipKeyEqual ⟨x⟩)
      else if y ++ n = 0xA1#8 then some (.skipKeyNotEqual ⟨x⟩) else none) ∧
    (decode (0xF#4 ++ x ++ y ++ n) =
      if y ++ n = 0x07#8 then some (.loadDelayTimer ⟨x⟩) else if y ++ n = 0x0A#8 then some (.waitKey ⟨x⟩)
      else if y ++ n = 0x15#8 then some (.storeDelayTimer ⟨x⟩)
      else if y ++ n = 0x18#8 then some (.storeBeepTimer ⟨x⟩)
      else if y ++ n = 0x1E#8 then some (.addAddress ⟨x⟩)
      else if y ++ n = 0x29#8 then some (.loadSpriteAddress ⟨x⟩)
      else if y ++ n = 0x33#8 then some (.storeBCD ⟨x⟩) else if y ++ n = 0x55#8 then some (.contextStore ⟨x⟩)
      else if y ++ n = 0x65#8 then some (.contextLoad ⟨x⟩) else none)

/-- R59: how many words of each leading nibble are valid; the others of its 4096 words are invalid. -/
def Obligations.ValidWordCountsPerLeadingNibble : Prop :=
  ((List.range 16).map fun a =>
    (List.range 4096).countP fun k => (decode (BitVec.ofNat 16 (4096 * a + k))).isSome) =
    [2, 4096, 4096, 4096, 4096, 256, 4096, 4096, 2304, 256, 4096, 4096, 4096, 4096, 32, 144]

/-- R57: no word matches two rows; and the row a word matches, in whatever order the rows are tried, is the row
of the variant that decode gives. -/
def Obligations.OpcodeRowsAreDisjointAndSelectTheVariant : Prop :=
  (∀ r q, r ∈ opcodeTable → q ∈ opcodeTable → ∀ w, rowSelects r w = true → rowSelects q w = true → r = q) ∧
  (∀ r, r ∈ opcodeTable → ∀ w, rowSelects r w = true ↔ ∃ i, decode w = some i ∧ rowOf i = some r) ∧
  ∀ w, decode w = none ↔ ∀ r, r ∈ opcodeTable → rowSelects r w = false

/-- R79: the port-level block gives `valid`, `class` and the five fields, and the abstract result is recovered
from them. -/
def Obligations.DecoderBlockRealisesDecode : Prop :=
  ∀ w,
    ((decoderBlock w).valid = if (decode w).isSome then 1 else 0) ∧
    ((decoderBlock w).cls.toNat = match decode w with | some i => i.classCode | none => 63) ∧
    (decoderBlock w).x.toNat = w.toNat / 256 % 16 ∧ (decoderBlock w).y.toNat = w.toNat / 16 % 16 ∧
    (decoderBlock w).n.toNat = w.toNat % 16 ∧ (decoderBlock w).kk.toNat = w.toNat % 256 ∧
    (decoderBlock w).nnn.toNat = w.toNat % 4096 ∧
    instrOfPorts (decoderBlock w) = decode w

/-- R33, R50: an instruction is two bytes, the byte at the lower address the more significant; the table's
numbering of an instruction gives the same decode. -/
def Obligations.BytesDecodeBigEndian : Prop :=
  (∀ hi lo rest, decodeBytes (hi :: lo :: rest) =
    match decode (BitVec.ofNat 16 (hi.toNat * 256 + lo.toNat)) with
    | some i => .ok (i, rest)
    | none => .error .invalidOpcode) ∧
  (decodeBytes [] = .error .truncated ∧ ∀ b, decodeBytes [b] = .error .truncated) ∧
  ∀ w : Word, decodeTableWord 16 w.toNat = decode w

/-! ## Parameters -/

/-- R5: the configuration record holds the thirteen parameters with their values, and they are the machine's sizes:
words, operands, registers, timers, pc, `I`, stack, memory, image, operations. -/
def Obligations.ConfigurationGivesTheSizes : Prop :=
  ∀ (s : State) (c : Configuration), c = s.configuration →
    (c.wordBits = 16 ∧ c.memSize = 4096 ∧ c.addrBits = 12 ∧ c.loadAddr = 0x200 ∧ c.maxImage = 3584 ∧
      c.numRegs = 16 ∧ c.regBits = 8 ∧ c.timerBits = 8 ∧ c.pcBits = 16 ∧ c.iBits = 16 ∧ c.stackCap = 12 ∧
      c.stackEntryBits = 16 ∧ c.numVariants = 34 ∧ c.maxImage = c.memSize - c.loadAddr ∧ c.toParams = s.params) ∧
    (∀ i, widthOf (encode i) = c.wordBits ∧ i.classCode < c.numVariants) ∧ opcodeTable.length = c.numVariants ∧
    (∀ a : Address, widthOf a.value = c.addrBits) ∧
    (∀ r, widthOf (s.getV r) = c.regBits) ∧ s.v.toList.length = c.numRegs ∧
    (∀ r : Register, r.index.toNat < c.numRegs) ∧ widthOf s.dt = c.timerBits ∧ widthOf s.st = c.timerBits ∧
    widthOf s.pc = c.pcBits ∧ widthOf s.iReg = c.iBits ∧ s.stack.toList.length = c.stackCap ∧
    s.sp.val ≤ c.stackCap ∧ (∀ k (h : k < 12), widthOf (s.stack[k]'h) = c.stackEntryBits) ∧
    (∀ a, (∃ u, memRead s a = .ok u) ↔ a < c.memSize) ∧
    ∀ image t, load image = .next t → image.length ≤ c.maxImage ∧ t.pc.toNat = c.loadAddr

/-! ## Load and reset -/

/-- R230, R231, R234: what `load` builds, and when it fails. -/
def Obligations.LoadBuildsTheResetState : Prop :=
  (∀ image : List Byte, image.length ≤ 3584 → ∃ s, load image = .next s ∧
    (∀ a, s.mem.read a =
      if 0x200 ≤ a ∧ a < 0x200 + image.length then image.getD (a - 0x200) 0 else 0) ∧
    (∀ r, s.getV r = 0) ∧ s.dt = 0 ∧ s.st = 0 ∧ s.iReg = 0 ∧ (∀ k (h : k < 12), s.stack[k]'h = 0) ∧
    s.sp.val = 0 ∧ s.pc.toNat = 0x200) ∧
  ∀ image : List Byte, 3584 < image.length → load image = .fault (.imageTooLarge image.length)

/-- R23: the invariant holds of the reset state and of every loaded state. Log 8: `State.reset` is `load` of the
empty image. -/
def Obligations.LoadedStatesSatisfyTheInvariant : Prop :=
  State.reset.Inv ∧ load [] = .next State.reset ∧ ∀ image s, load image = .next s → s.Inv

/-- R237: the first step with an empty image faults, a one-byte image is read as that byte and a zero byte, and
a core step that runs into zeroed memory faults in the same way. -/
def Obligations.ZeroedMemoryIsNoInstruction : Prop :=
  (∀ s, load [] = .next s → step s = .fault (.invalidOpcode 0x200 0x0000)) ∧
  (∀ b s, load [b] = .next s → fetch s = .ok (b ++ 0x00#8)) ∧
  ∀ s : State, 0x200 ≤ s.pc.toNat → s.pc.toNat ≤ 0xFFE → s.mem.read s.pc.toNat = 0 →
    s.mem.read (s.pc.toNat + 1) = 0 → coreStep s = .fault (.invalidOpcode s.pc 0x0000)

/-- R236, R181: glyphs the platform writes at `FONT_BASE` lie below 0x200, and `LoadSpriteAddress` then finds the
5-byte glyph of the digit. -/
def Obligations.PlatformFontIsFoundByLoadSpriteAddress : Prop :=
  ∀ (glyphs : Vector Byte 80) (s : State),
    (∀ a, 0x200 ≤ a → (platformWriteFont glyphs s).mem.read a = s.mem.read a) ∧
    (s.Inv → (platformWriteFont glyphs s).Inv) ∧
    ∀ r, ∃ t, exec (.loadSpriteAddress r) (platformWriteFont glyphs s) = .next t ∧
      ∀ k, k < 5 → t.mem.read (t.iReg.toNat + k) = glyphs.toList.getD (5 * ((s.getV r).toNat % 16) + k) 0

/-! ## Memory -/

/-- R36, R37: a byte access inside 0 to 0xFFF reads or writes that byte and no other; above 0xFFF it faults and
never wraps; a word is the two bytes, the one at the lower address first. -/
def Obligations.MemReadAndMemWrite : Prop :=
  (∀ s a, a ≤ 0xFFF → memRead s a = .ok (s.mem.read a)) ∧
  (∀ s a, 0xFFF < a → memRead s a = .error (.memoryOutOfBounds a)) ∧
  (∀ s a, a + 1 ≤ 0xFFF → memRead2 s a = .ok (s.mem.read a ++ s.mem.read (a + 1))) ∧
  (∀ s a u, a ≤ 0xFFF → ∃ t, memWrite s a u = .ok t ∧ changesOnly [.mem] s t ∧
    ∀ b, t.mem.read b = if b = a then u else s.mem.read b) ∧
  ∀ s a u, 0xFFF < a → memWrite s a u = .error (.memoryOutOfBounds a)

/-- Two canonical memories that read the same are the same data. -/
def Obligations.CanonicalMemoriesAreEqualWhenTheyReadEqual : Prop :=
  ∀ m m' : Memory, m.wf = true → m'.wf = true → (∀ a, m.read a = m'.read a) → m = m'

/-- R43: the bytes a `ContextStore` or a `StoreBCD` writes are what the next fetch reads. -/
def Obligations.StoresAreSeenByTheNextFetch : Prop :=
  (∀ (x : Register) (s t : State) (p : Word), exec (.contextStore x) s = .next t →
    0x200 ≤ p.toNat → p.toNat ≤ 0xFFE → s.iReg.toNat ≤ p.toNat →
    p.toNat + 1 ≤ s.iReg.toNat + x.index.toNat →
    fetch { t with pc := p } = .ok
      (s.getV ⟨BitVec.ofNat 4 (p.toNat - s.iReg.toNat)⟩ ++ s.getV ⟨BitVec.ofNat 4 (p.toNat + 1 - s.iReg.toNat)⟩)) ∧
  ∀ (r : Register) (s t : State) (p : Word), exec (.storeBCD r) s = .next t →
    0x200 ≤ p.toNat → p.toNat ≤ 0xFFE →
    (p.toNat = s.iReg.toNat → ∃ w, fetch { t with pc := p } = .ok w ∧
      w.toNat = 256 * ((s.getV r).toNat / 100) + (s.getV r).toNat / 10 % 10) ∧
    (p.toNat = s.iReg.toNat + 1 → ∃ w, fetch { t with pc := p } = .ok w ∧
      w.toNat = 256 * ((s.getV r).toNat / 10 % 10) + (s.getV r).toNat % 10)

/-! ## The step -/

/-- R91: when the core may fetch, what it fetches, and the fault of any other pc, in which nothing is read. -/
def Obligations.FetchOnlyInsideTheProgramRange : Prop :=
  (∀ s : State, 0x200 ≤ s.pc.toNat → s.pc.toNat ≤ 0xFFE → ∃ w, fetch s = .ok w ∧
    w.toNat = (s.mem.read s.pc.toNat).toNat * 256 + (s.mem.read (s.pc.toNat + 1)).toNat) ∧
  ∀ s : State, (s.pc.toNat < 0x200 ∨ 0xFFE < s.pc.toNat) →
    (∀ m, fetch { s with mem := m } = .error (.pcOutOfRange s.pc)) ∧ coreStep s = .fault (.pcOutOfRange s.pc)

/-- R94: an invalid word at execution is a fault that records pc and word. -/
def Obligations.InvalidWordFaults : Prop :=
  ∀ (s : State) (w : Word), 0x200 ≤ s.pc.toNat → s.pc.toNat ≤ 0xFFE →
    w.toNat = (s.mem.read s.pc.toNat).toNat * 256 + (s.mem.read (s.pc.toNat + 1)).toNat → decode w = none →
    coreStep s = .fault (.invalidOpcode s.pc w)

/-- R98: a step is a tick or a core step, indivisible each. A tick's turn changes only the timers and what the model
keeps of the schedule (`untilTick`, and the count of free answers); the core's turn begins with the state but for the
schedule, and faults as a core step of the state does. When it is whose turn is the model's choice (log 3). -/
def Obligations.StepIsATickOrACoreStep : Prop :=
  ∀ s : State,
    (tickDue s = true → step s = .next (tickTurn s)) ∧
    (tickDue s = false → step s = coreStep (coreTurn s)) ∧
    ((tickTurn s).dt = (tick s).dt ∧ (tickTurn s).st = (tick s).st ∧
      changesOnly [.dt, .st, .asked, .untilTick] s (tickTurn s)) ∧
    changesOnly [.asked, .untilTick] s (coreTurn s) ∧ (∀ f, coreStep (coreTurn s) = .fault f ↔ coreStep s = .fault f)

/-- R92: a core step runs the decoded instruction, and a step does so unless it is the tick agent's turn (log 3);
with both timers at 0 it never is, and the step is exec of the instruction at that state, with the number of core
steps before the next tick open, as it is after reset. -/
def Obligations.StepRunsTheDecodedInstruction : Prop :=
  ∀ (s : State) (w : Word) (i : Instr), 0x200 ≤ s.pc.toNat → s.pc.toNat ≤ 0xFFE →
    w.toNat = (s.mem.read s.pc.toNat).toNat * 256 + (s.mem.read (s.pc.toNat + 1)).toNat → decode w = some i →
    coreStep s = exec i s ∧ (step s = if tickDue s then .next (tickTurn s) else exec i (coreTurn s)) ∧
      (s.dt = 0 → s.st = 0 → step s = exec i { s with untilTick := none } ∧
        (s.untilTick = none → step s = exec i s))

/-- The instruction that `withFetchWord` places is the one the next step runs, also where a tick was due (log 11). -/
def Obligations.PlacedWordIsRunNext : Prop :=
  ∀ (s : State) (w : Word) (i : Instr), decode w = some i →
    step (s.withFetchWord 16 w.toNat) = exec i (coreTurn (s.withFetchWord 16 w.toNat)) ∧
    ((0x200 ≤ s.pc.toNat ∧ s.pc.toNat ≤ 0xFFE) → changesOnly [.mem, .untilTick] s (s.withFetchWord 16 w.toNat) ∧
      (tickDue s = false → changesOnly [.mem] s (s.withFetchWord 16 w.toNat)) ∧
      ∀ a, a ≠ s.pc.toNat → a ≠ s.pc.toNat + 1 → (s.withFetchWord 16 w.toNat).mem.read a = s.mem.read a)

/-- R97: one tick lowers each timer that is above 0 by one and leaves a timer at 0; it touches nothing else, and with
both timers at 0 nothing at all. So n ticks lower each timer by n, not below 0. -/
def Obligations.TickLowersEachTimer : Prop :=
  ∀ s : State,
    ((tick s).dt.toNat = s.dt.toNat - 1 ∧ (tick s).st.toNat = s.st.toNat - 1 ∧
      changesOnly [.dt, .st] s (tick s)) ∧
    (s.dt = 0 → s.st = 0 → tick s = s) ∧
    ∀ n, (tickTimes n s).dt.toNat = s.dt.toNat - n ∧ (tickTimes n s).st.toNat = s.st.toNat - n ∧
      changesOnly [.dt, .st] s (tickTimes n s)

/-- R97, R99: the tick agent's duty. On every infinite run, from every point of it, after at most `stepsLeft` steps
a tick is taken or both timers are at 0, where a tick changes nothing: no run puts a tick off for ever. And ticks do
not keep the core from its turn: of any 256 steps one is the core's. That the number of core steps before the next
tick is a free finite number is the model's form of weak fairness (log 3). -/
def Obligations.TicksAreWeaklyFair : Prop :=
  ∀ r : Nat → State, isRun r → ∀ n,
    (∃ m, n ≤ m ∧ m ≤ n + stepsLeft (r n) ∧
      (timerRuns (r m) = false ∨ (tickDue (r m) = true ∧ r (m + 1) = tickTurn (r m)))) ∧
    ∃ m, n ≤ m ∧ m ≤ n + 255 ∧ tickDue (r m) = false

/-- R97: "the only assumption is weak fairness". After a tick, and after a step from a state with both timers at 0, the
number of core steps before the next tick is open; while a timer runs an open number is drawn, a free value at an
index not drawn from before; and each core step from a state in which a timer runs lowers it by one. The drawing is
the model's (log 3). -/
def Obligations.TheNextTickIsOpen : Prop :=
  ∀ s t : State, step s = .next t →
    (tickDue s = true ∨ timerRuns s = false → t.untilTick = none) ∧
    (tickDue s = false → timerRuns s = true → t.untilTick = some (stepsLeft s - 1)) ∧
    (s.untilTick = none → stepsLeft s = Config.tickGap s.asked) ∧
    s.asked ≤ t.asked ∧ (timerRuns s = true → s.untilTick = none → s.asked < t.asked)

/-- R95, R103: in a final state the core has a step, which leaves the state unchanged; a step of the machine changes
at most the timers and what the model keeps of the schedule, and the state stays final. -/
def Obligations.FinalStatesStayFinal : Prop :=
  ∀ s : State, isFinal s = true → coreStep s = .next s ∧
    ∃ t, step s = .next t ∧ changesOnly [.dt, .st, .asked, .untilTick] s t ∧ isFinal t = true

/-- R23, R107, R159: every step keeps the canonical memory inside 0 to 0xFFF, a pc that never wraps, and return
addresses of at most 0x1000. -/
def Obligations.EveryStepKeepsTheInvariant : Prop :=
  ∀ s t : State, s.Inv → step s = .next t → t.Inv

/-- R24: what each instruction leaves unchanged: every part, every register and every byte of memory that the
access table does not list as written, and every stack entry but the one pushed. -/
def Obligations.InstructionsWriteOnlyWhatTheAccessTableLists : Prop :=
  ∀ (i : Instr) (s t : State), exec i s = .next t →
    changesOnly (mayWrite s.params i) s t ∧
    (∀ r, mayWriteReg s.params r i = false → t.getV r = s.getV r) ∧
    (∀ a, (a < s.iReg.toNat ∨ s.iReg.toNat + storedCount i ≤ a) → t.mem.read a = s.mem.read a) ∧
    ∀ k (h : k < 12), k ≠ s.sp.val → t.stack[k]'h = s.stack[k]'h

/-- R200, R209: which fault an instruction can raise, when, and what it records; no instruction can raise two
different faults, and no step is refused. -/
def Obligations.FaultsOfInstructions : Prop :=
  (∀ (i : Instr) (s : State) (f : Fault), exec i s = .fault f →
    (∃ a, i = .call a ∧ s.sp.val = 12 ∧ f = .stackOverflow s.pc) ∨
    (i = .ret ∧ s.sp.val = 0 ∧ f = .stackUnderflow s.pc) ∨
    (∃ n, ((∃ x y h, i = .draw x y h ∧ n = h.value.toNat) ∨ (∃ r, i = .storeBCD r ∧ n = 3) ∨
        (∃ x, i = .contextStore x ∧ n = x.index.toNat + 1) ∨ (∃ x, i = .contextLoad x ∧ n = x.index.toNat + 1)) ∧
      n ≠ 0 ∧ 0xFFF < s.iReg.toNat + n - 1 ∧ f = .memoryOutOfBounds (max s.iReg.toNat 0x1000))) ∧
  ∀ s r, step s ≠ .refused r

/-- R92, R93, R96, R108: where the pc goes. Only `WaitKey` may hold; only the skips and the four control
transfers do other than advance by 2. -/
def Obligations.PcAfterAnInstruction : Prop :=
  ∀ (i : Instr) (s t : State), exec i s = .next t →
    match i with
    | .jump a | .call a => t.pc = a.value.setWidth 16
    | .jumpWithOffset a => t.pc = jumpOffsetTarget s a
    | .ret => t.pc = s.top
    | .skipEqualConstant _ _ | .skipNotEqualConstant _ _ | .skipEqualRegister _ _ | .skipNotEqualRegister _ _
    | .skipKeyEqual _ | .skipKeyNotEqual _ => t.pc = s.pc + 2 ∨ t.pc = s.pc + 4
    | .waitKey _ => t.pc = s.pc + 2 ∨ t.pc = s.pc
    | _ => t.pc = s.pc + 2

/-- R220, R221: two askings are unrelated, so each takes a new free answer (log 2: the counter of answers is the
model's own): the five instructions that ask take one, the others none. -/
def Obligations.EachAskingTakesOneAnswer : Prop :=
  ∀ (i : Instr) (s t : State), exec i s = .next t →
    match i with
    | .rand _ _ | .draw _ _ _ | .skipKeyEqual _ | .skipKeyNotEqual _ | .waitKey _ => t.asked = s.asked + 1
    | _ => t.asked = s.asked

/-- R6: the four switches have their defaults after `load`. R19: the parameters are not state: no step changes
them. R219: the events on the display port are only added to. The record stands in the state by the model's choice
(log 5). -/
def Obligations.ParametersAreFixedAndEventsOnlyAdded : Prop :=
  (∀ image s, load image = .next s → s.params.shiftSrc = .vy ∧ s.params.memIncrI = true ∧
    s.params.jumpOffsetReg = .v0 ∧ s.params.logicResetsVF = true) ∧
  ∀ s t : State, step s = .next t → t.params = s.params ∧ (∃ es, t.display = s.display ++ es) ∧ s.asked ≤ t.asked

/-- R219: the display port has no state in this hardware: the history of events decides nothing. Two machines
that differ only in it step alike and emit the same events. -/
def Obligations.DisplayHistoryDecidesNothing : Prop :=
  ∀ (s t : State) (d : List DisplayEvent), step s = .next t →
    ∃ es, t.display = s.display ++ es ∧ step { s with display := d } = .next { t with display := d ++ es }

/-- R16: no instruction reads the sound timer. With another value in ST every instruction answers the same next
state but for ST, which keeps that value unless the instruction is `StoreBeepTimer`, and the same fault. -/
def Obligations.NoInstructionReadsTheSoundTimer : Prop :=
  ∀ (i : Instr) (s : State) (u : Byte),
    (∀ t, exec i s = .next t → (∀ r, i ≠ .storeBeepTimer r) →
      exec i { s with st := u } = .next { t with st := u }) ∧
    (∀ t, exec i s = .next t → (∃ r, i = .storeBeepTimer r) → exec i { s with st := u } = .next t) ∧
    ∀ f, exec i s = .fault f → exec i { s with st := u } = .fault f

/-! ## Control transfer -/

/-- R103. -/
def Obligations.JumpSetsThePc : Prop :=
  ∀ (a : Address) (s : State), ∃ t, exec (.jump a) s = .next t ∧ t.pc.toNat = a.value.toNat ∧
    changesOnly [.pc] s t ∧ (s.pc.toNat = a.value.toNat → t = s) ∧
    (a.value.toNat < 0x200 ∨ a.value.toNat = 0xFFF → coreStep t = .fault (.pcOutOfRange t.pc))

/-- R105. -/
def Obligations.CallPushesTheReturnAddress : Prop :=
  (∀ (a : Address) (s : State) (h : s.sp.val < 12), ∃ t, exec (.call a) s = .next t ∧
    t.stack[s.sp.val]'h = s.pc + 2 ∧ (∀ k (hk : k < 12), k ≠ s.sp.val → t.stack[k]'hk = s.stack[k]'hk) ∧
    t.sp.val = s.sp.val + 1 ∧ t.pc.toNat = a.value.toNat ∧ changesOnly [.pc, .sp, .stack] s t) ∧
  ∀ (a : Address) (s : State), s.sp.val = 12 → exec (.call a) s = .fault (.stackOverflow s.pc)

/-- R101. -/
def Obligations.ReturnPopsTheStack : Prop :=
  (∀ (s : State) (h : s.sp.val - 1 < 12), s.sp.val ≠ 0 → ∃ t, exec .ret s = .next t ∧
    t.sp.val = s.sp.val - 1 ∧ t.pc = s.stack[s.sp.val - 1]'h ∧ changesOnly [.pc, .sp] s t ∧
    (t.pc.toNat < 0x200 ∨ 0xFFE < t.pc.toNat → coreStep t = .fault (.pcOutOfRange t.pc))) ∧
  ∀ s : State, s.sp.val = 0 → exec .ret s = .fault (.stackUnderflow s.pc)

/-- R101, R105: a `Return` right after a `Call` comes back to the instruction after the `Call`, at the same
depth; of the stack only the entry the `Call` wrote, now stale, may differ. -/
def Obligations.ReturnUndoesCall : Prop :=
  ∀ (a : Address) (s : State), s.sp.val < 12 → ∃ t u, exec (.call a) s = .next t ∧ exec .ret t = .next u ∧
    u.pc = s.pc + 2 ∧ u.sp = s.sp ∧ changesOnly [.pc, .stack] s u ∧
    ∀ k (h : k < 12), k ≠ s.sp.val → u.stack[k]'h = s.stack[k]'h

/-- R107. -/
def Obligations.JumpWithOffsetAddsTheRegister : Prop :=
  ∀ (a : Address) (s : State), ∃ t, exec (.jumpWithOffset a) s = .next t ∧
    (s.params.jumpOffsetReg = .v0 → t.pc.toNat = a.value.toNat + (s.getV regV0).toNat) ∧
    (s.params.jumpOffsetReg = .vx →
      t.pc.toNat = a.value.toNat + (s.getV ⟨BitVec.ofNat 4 (a.value.toNat / 256)⟩).toNat) ∧
    t.pc.toNat ≤ 0x10FE ∧ changesOnly [.pc] s t ∧
    (t.pc.toNat < 0x200 ∨ 0xFFE < t.pc.toNat → coreStep t = .fault (.pcOutOfRange t.pc))

/-! ## Skips -/

/-- R111, R113. -/
def Obligations.SkipsOnAConstant : Prop :=
  ∀ (r : Register) (c : Constant8) (s : State),
    (∃ t, exec (.skipEqualConstant r c) s = .next t ∧ changesOnly [.pc] s t ∧
      (s.getV r = c.value → t.pc = s.pc + 4) ∧ (s.getV r ≠ c.value → t.pc = s.pc + 2)) ∧
    ∃ t, exec (.skipNotEqualConstant r c) s = .next t ∧ changesOnly [.pc] s t ∧
      (s.getV r ≠ c.value → t.pc = s.pc + 4) ∧ (s.getV r = c.value → t.pc = s.pc + 2)

/-- R115, R117. -/
def Obligations.SkipsOnRegisters : Prop :=
  ∀ (x y : Register) (s : State),
    (∃ t, exec (.skipEqualRegister x y) s = .next t ∧ changesOnly [.pc] s t ∧
      (s.getV x = s.getV y → t.pc = s.pc + 4) ∧ (s.getV x ≠ s.getV y → t.pc = s.pc + 2) ∧
      (x = y → t.pc = s.pc + 4)) ∧
    ∃ t, exec (.skipNotEqualRegister x y) s = .next t ∧ changesOnly [.pc] s t ∧
      (s.getV x ≠ s.getV y → t.pc = s.pc + 4) ∧ (s.getV x = s.getV y → t.pc = s.pc + 2) ∧
      (x = y → t.pc = s.pc + 2)

/-- R119, R121: the answer `KeyDown(V[reg])` is a free value, asked for the whole 8-bit register (log 2 says what
form it has). -/
def Obligations.SkipsOnAKey : Prop :=
  ∀ (r : Register) (s : State),
    (∃ t, exec (.skipKeyEqual r) s = .next t ∧ changesOnly [.pc, .asked] s t ∧
      t.pc = if Config.keyDown s.asked (s.getV r) then s.pc + 4 else s.pc + 2) ∧
    (∃ t, exec (.skipKeyNotEqual r) s = .next t ∧ changesOnly [.pc, .asked] s t ∧
      t.pc = if Config.keyDown s.asked (s.getV r) then s.pc + 2 else s.pc + 4) ∧
    ∀ down, ∃ t u, skipKeyEqualWith down s = .next t ∧ skipKeyNotEqualWith down s = .next u ∧
      (down = true → t.pc = s.pc + 4 ∧ u.pc = s.pc + 2) ∧ (down = false → t.pc = s.pc + 2 ∧ u.pc = s.pc + 4)

/-! ## Constants and random -/

/-- R131, R133: every register may be the destination, VF too; no flag is written. -/
def Obligations.LoadAndAddConstant : Prop :=
  ∀ (r : Register) (c : Constant8) (s : State),
    (∃ t, exec (.loadConstant r c) s = .next t ∧ t.pc = s.pc + 2 ∧ changesOnly [.pc, .v] s t ∧
      ∀ q, t.getV q = if q = r then c.value else s.getV q) ∧
    ∃ t, exec (.addConstant r c) s = .next t ∧ t.pc = s.pc + 2 ∧ changesOnly [.pc, .v] s t ∧
      (t.getV r).toNat = ((s.getV r).toNat + c.value.toNat) % 256 ∧ ∀ q, q ≠ r → t.getV q = s.getV q

/-- R135. -/
def Obligations.LoadAddressConstantSetsI : Prop :=
  ∀ (a : Address) (s : State), ∃ t, exec (.loadAddressConstant a) s = .next t ∧ t.pc = s.pc + 2 ∧
    t.iReg.toNat = a.value.toNat ∧ t.iReg.toNat ≤ 0xFFF ∧ changesOnly [.pc, .iReg] s t

/-- R137: the byte is a free value; whatever it is, the result has no bit set that the constant has not, and with
constant 0 it is 0. -/
def Obligations.RandMasksAFreeByte : Prop :=
  ∀ (r : Register) (c : Constant8) (s : State),
    (∃ t, exec (.rand r c) s = .next t ∧ t.pc = s.pc + 2 ∧ changesOnly [.pc, .v, .asked] s t ∧
      t.getV r = Config.drawByte s.asked &&& c.value ∧
      (∀ k, (t.getV r).getLsbD k = true → c.value.getLsbD k = true) ∧ (c.value = 0 → t.getV r = 0) ∧
      ∀ q, q ≠ r → t.getV q = s.getV q) ∧
    ∀ u, ∃ t, randWith u r c s = .next t ∧ t.getV r = u &&& c.value

/-! ## Arithmetic and logic -/

/-- R142. -/
def Obligations.CopyMovesARegister : Prop :=
  ∀ (x y : Register) (s : State), ∃ t, exec (.copy x y) s = .next t ∧ t.pc = s.pc + 2 ∧
    changesOnly [.pc, .v] s t ∧ (∀ q, t.getV q = if q = x then s.getV y else s.getV q) ∧
    (x = y → changesOnly [.pc] s t)

/-- R143, R145, R147, R158: the bitwise results; VF ends as 0 when `Q_LOGIC_RESETS_VF` is true, also as the
destination, and is otherwise an ordinary register. -/
def Obligations.LogicOperations : Prop :=
  ∀ (x y : Register) (s : State) (i : Instr) (f : Bool → Bool → Bool),
    ((i = .or x y ∧ f = (· || ·)) ∨ (i = .and x y ∧ f = (· && ·)) ∨ (i = .xor x y ∧ f = Bool.xor)) →
    ∃ t, exec i s = .next t ∧ t.pc = s.pc + 2 ∧ changesOnly [.pc, .v] s t ∧
      (s.params.logicResetsVF = true → t.getV regVF = 0) ∧
      ∀ q, (s.params.logicResetsVF = true → q ≠ regVF) →
        (q = x → ∀ k, k < 8 → (t.getV q).getLsbD k = f ((s.getV x).getLsbD k) ((s.getV y).getLsbD k)) ∧
        (q ≠ x → t.getV q = s.getV q)

/-- R149, R158: the sum modulo 256 and the carry; the flag is written last, so with x = 15 VF holds the carry. -/
def Obligations.AddSetsTheCarry : Prop :=
  ∀ (x y : Register) (s : State), ∃ t, exec (.add x y) s = .next t ∧ t.pc = s.pc + 2 ∧
    changesOnly [.pc, .v] s t ∧
    (t.getV regVF).toNat = (if 255 < (s.getV x).toNat + (s.getV y).toNat then 1 else 0) ∧
    (x ≠ regVF → (t.getV x).toNat = ((s.getV x).toNat + (s.getV y).toNat) % 256) ∧
    ∀ q, q ≠ x → q ≠ regVF → t.getV q = s.getV q

/-- R151, R155, R158: the differences modulo 256, and VF = 1 when no borrow occurs, equal operands too. -/
def Obligations.SubtractionsSetNotBorrow : Prop :=
  ∀ (x y : Register) (s : State),
    (∃ t, exec (.sub x y) s = .next t ∧ t.pc = s.pc + 2 ∧ changesOnly [.pc, .v] s t ∧
      (t.getV regVF).toNat = (if (s.getV y).toNat ≤ (s.getV x).toNat then 1 else 0) ∧
      (x ≠ regVF → (t.getV x).toNat = ((s.getV x).toNat + 256 - (s.getV y).toNat) % 256) ∧
      ∀ q, q ≠ x → q ≠ regVF → t.getV q = s.getV q) ∧
    ∃ t, exec (.minusSub x y) s = .next t ∧ t.pc = s.pc + 2 ∧ changesOnly [.pc, .v] s t ∧
      (t.getV regVF).toNat = (if (s.getV x).toNat ≤ (s.getV y).toNat then 1 else 0) ∧
      (x ≠ regVF → (t.getV x).toNat = ((s.getV y).toNat + 256 - (s.getV x).toNat) % 256) ∧
      ∀ q, q ≠ x → q ≠ regVF → t.getV q = s.getV q

/-- R153, R157, R158: one bit, filled with 0; VF receives the bit shifted out; the source is `V[y]` or `V[x]` by
`Q_SHIFT_SRC`. -/
def Obligations.ShiftsMoveOneBit : Prop :=
  ∀ (x y : Register) (s : State) (src : Nat),
    ((s.params.shiftSrc = .vy ∧ src = (s.getV y).toNat) ∨ (s.params.shiftSrc = .vx ∧ src = (s.getV x).toNat)) →
    (∃ t, exec (.shiftRight x y) s = .next t ∧ t.pc = s.pc + 2 ∧ changesOnly [.pc, .v] s t ∧
      (t.getV regVF).toNat = src % 2 ∧ (x ≠ regVF → (t.getV x).toNat = src / 2) ∧
      ∀ q, q ≠ x → q ≠ regVF → t.getV q = s.getV q) ∧
    ∃ t, exec (.shiftLeft x y) s = .next t ∧ t.pc = s.pc + 2 ∧ changesOnly [.pc, .v] s t ∧
      (t.getV regVF).toNat = src / 128 ∧ (x ≠ regVF → (t.getV x).toNat = src * 2 % 256) ∧
      ∀ q, q ≠ x → q ≠ regVF → t.getV q = s.getV q

/-! ## Display -/

/-- R161. -/
def Obligations.ClearDisplayEmitsItsEvent : Prop :=
  ∀ s : State, ∃ t, exec .clearDisplay s = .next t ∧ t.pc = s.pc + 2 ∧ t.display = s.display ++ [.clearScreen] ∧
    changesOnly [.pc, .display] s t

/-- R163: the bounds check, the event with coordinates and rows as they are before VF is written, and VF, a free
bit, also when the height is 0. -/
def Obligations.DrawEmitsTheSpriteAndAFreeBit : Prop :=
  ∀ (x y : Register) (n : Constant4) (s : State),
    (n.value.toNat = 0 ∨ s.iReg.toNat + n.value.toNat - 1 ≤ 0xFFF →
      (∃ t, exec (.draw x y n) s = .next t ∧ t.pc = s.pc + 2 ∧
        changesOnly [.pc, .v, .display, .asked] s t ∧
        t.display = s.display ++ [.drawSprite (s.getV x) (s.getV y)
          ((List.range n.value.toNat).map fun k => s.mem.read (s.iReg.toNat + k))] ∧
        (t.getV regVF).toNat = (Config.drawBit s.asked).toNat ∧ ∀ q, q ≠ regVF → t.getV q = s.getV q) ∧
      ∀ bit, ∃ t, drawWith bit x y n s = .next t ∧ (t.getV regVF).toNat = bit.toNat) ∧
    (n.value.toNat ≠ 0 → 0xFFF < s.iReg.toNat + n.value.toNat - 1 →
      exec (.draw x y n) s = .fault (.memoryOutOfBounds (max s.iReg.toNat 0x1000)))

/-! ## Timers, keys, index register, memory -/

/-- R172, R176, R178. -/
def Obligations.TimerMoves : Prop :=
  ∀ (r : Register) (s : State),
    (∃ t, exec (.loadDelayTimer r) s = .next t ∧ t.pc = s.pc + 2 ∧ changesOnly [.pc, .v] s t ∧
      ∀ q, t.getV q = if q = r then s.dt else s.getV q) ∧
    (∃ t, exec (.storeDelayTimer r) s = .next t ∧ t.pc = s.pc + 2 ∧ t.dt = s.getV r ∧
      changesOnly [.pc, .dt] s t) ∧
    ∃ t, exec (.storeBeepTimer r) s = .next t ∧ t.pc = s.pc + 2 ∧ t.st = s.getV r ∧ changesOnly [.pc, .st] s t

/-- R173, R96: with a key presented its number 0 to 15 is written; with none the core holds: only the model's
count of free answers moves (log 4). Which of the two happens is a free value (log 2); the meaning is stated for
each answer. -/
def Obligations.WaitKeyTakesAKeyOrHolds : Prop :=
  ∀ (r : Register) (s : State),
    (∃ t, exec (.waitKey r) s = .next t ∧
      match Config.keyPresented s.asked with
      | some k => t.pc = s.pc + 2 ∧ (t.getV r).toNat = k.toNat ∧ (∀ q, q ≠ r → t.getV q = s.getV q) ∧
          changesOnly [.pc, .v, .asked] s t
      | none => changesOnly [.asked] s t) ∧
    (∀ k, ∃ t, waitKeyWith (some k) r s = .next t ∧ t.pc = s.pc + 2 ∧ (t.getV r).toNat = k.toNat ∧
      (t.getV r).toNat ≤ 15) ∧
    ∃ t, waitKeyWith none r s = .next t ∧ changesOnly [.asked] s t

/-- R180: the sum is not masked; past 0xFFF every instruction that uses `I` as an address faults. -/
def Obligations.AddAddressAddsToI : Prop :=
  ∀ (r : Register) (s : State), ∃ t, exec (.addAddress r) s = .next t ∧ t.pc = s.pc + 2 ∧
    t.iReg.toNat = (s.iReg.toNat + (s.getV r).toNat) % 65536 ∧ changesOnly [.pc, .iReg] s t ∧
    (0xFFF < t.iReg.toNat → ∀ (q : Register) (n : Constant4),
      exec (.storeBCD q) t = .fault (.memoryOutOfBounds t.iReg.toNat) ∧
      exec (.contextStore q) t = .fault (.memoryOutOfBounds t.iReg.toNat) ∧
      exec (.contextLoad q) t = .fault (.memoryOutOfBounds t.iReg.toNat) ∧
      (n.value.toNat ≠ 0 → exec (.draw q q n) t = .fault (.memoryOutOfBounds t.iReg.toNat)))

/-- R181: for every `FONT_BASE` with `FONT_BASE + 80 <= 0x200`. -/
def Obligations.LoadSpriteAddressPointsAtTheDigit : Prop :=
  ∀ (r : Register) (s : State), s.params.fontBase.val + 80 ≤ 0x200 ∧
    ∃ t, exec (.loadSpriteAddress r) s = .next t ∧ t.pc = s.pc + 2 ∧
      t.iReg.toNat = s.params.fontBase.val + 5 * ((s.getV r).toNat % 16) ∧ t.iReg.toNat < 0x200 ∧
      changesOnly [.pc, .iReg] s t

/-- R183. -/
def Obligations.StoreBCDWritesThreeDigits : Prop :=
  ∀ (r : Register) (s : State),
    (s.iReg.toNat + 2 ≤ 0xFFF → ∃ t, exec (.storeBCD r) s = .next t ∧ t.pc = s.pc + 2 ∧
      changesOnly [.pc, .mem] s t ∧
      (t.mem.read s.iReg.toNat).toNat = (s.getV r).toNat / 100 ∧
      (t.mem.read (s.iReg.toNat + 1)).toNat = (s.getV r).toNat / 10 % 10 ∧
      (t.mem.read (s.iReg.toNat + 2)).toNat = (s.getV r).toNat % 10 ∧
      ∀ a, (a < s.iReg.toNat ∨ s.iReg.toNat + 3 ≤ a) → t.mem.read a = s.mem.read a) ∧
    (0xFFF < s.iReg.toNat + 2 →
      exec (.storeBCD r) s = .fault (.memoryOutOfBounds (max s.iReg.toNat 0x1000)))

/-- R185. -/
def Obligations.ContextStoreSavesRegisters : Prop :=
  ∀ (x : Register) (s : State),
    (s.iReg.toNat + x.index.toNat ≤ 0xFFF → ∃ t, exec (.contextStore x) s = .next t ∧ t.pc = s.pc + 2 ∧
      changesOnly [.pc, .mem, .iReg] s t ∧
      (∀ r : Register, r.index.toNat ≤ x.index.toNat → t.mem.read (s.iReg.toNat + r.index.toNat) = s.getV r) ∧
      (∀ a, (a < s.iReg.toNat ∨ s.iReg.toNat + x.index.toNat < a) → t.mem.read a = s.mem.read a) ∧
      t.iReg.toNat = if s.params.memIncrI then s.iReg.toNat + x.index.toNat + 1 else s.iReg.toNat) ∧
    (0xFFF < s.iReg.toNat + x.index.toNat →
      exec (.contextStore x) s = .fault (.memoryOutOfBounds (max s.iReg.toNat 0x1000)))

/-- R187. -/
def Obligations.ContextLoadRestoresRegisters : Prop :=
  ∀ (x : Register) (s : State),
    (s.iReg.toNat + x.index.toNat ≤ 0xFFF → ∃ t, exec (.contextLoad x) s = .next t ∧ t.pc = s.pc + 2 ∧
      changesOnly [.pc, .v, .iReg] s t ∧
      (∀ r : Register, t.getV r =
        if r.index.toNat ≤ x.index.toNat then s.mem.read (s.iReg.toNat + r.index.toNat) else s.getV r) ∧
      t.iReg.toNat = if s.params.memIncrI then s.iReg.toNat + x.index.toNat + 1 else s.iReg.toNat) ∧
    (0xFFF < s.iReg.toNat + x.index.toNat →
      exec (.contextLoad x) s = .fault (.memoryOutOfBounds (max s.iReg.toNat 0x1000)))

/-- R185, R187: registers saved at an address and loaded from there, by a machine whose registers hold anything
by then, are the registers saved. -/
def Obligations.ContextSurvivesSaveAndRestore : Prop :=
  ∀ (x : Register) (s t u : State), exec (.contextStore x) s = .next t →
    u.mem = t.mem → u.iReg = s.iReg →
    ∃ w, exec (.contextLoad x) u = .next w ∧
      ∀ r : Register, w.getV r = if r.index.toNat ≤ x.index.toNat then s.getV r else u.getV r
end

