-- ==== Sys2Proof/Laws/Decode.lean ====
section
/-! SUPPORT. The fields of a word written as its four nibbles, and the words of the encoder as nibbles. -/

namespace Sys2Proof

/-- A word as its four nibbles, most significant first (R7). -/
def wordOfNibbles (a x y n : BitVec 4) : Word := a ++ x ++ y ++ n

theorem toNat_append4 {k : Nat} (u : BitVec k) (n : BitVec 4) : (u ++ n).toNat = 16 * u.toNat + n.toNat := by
  have h : n.toNat < 2 ^ 4 := n.isLt
  rw [BitVec.toNat_append, ← Nat.shiftLeft_add_eq_or_of_lt h, Nat.shiftLeft_eq]; omega

theorem toNat_nibbles (a x y n : BitVec 4) :
    (wordOfNibbles a x y n).toNat = 4096 * a.toNat + 256 * x.toNat + 16 * y.toNat + n.toNat := by
  simp only [wordOfNibbles, toNat_append4]; omega

theorem leadingNibble_toNat (w : Word) : (leadingNibble w).toNat = w.toNat / 4096 := by
  simp only [leadingNibble, BitVec.extractLsb'_toNat, Nat.shiftRight_eq_div_pow]; omega

theorem secondNibble_toNat (w : Word) : (secondNibble w).toNat = w.toNat / 256 % 16 := by
  simp only [secondNibble, BitVec.extractLsb'_toNat, Nat.shiftRight_eq_div_pow]

theorem thirdNibble_toNat (w : Word) : (thirdNibble w).toNat = w.toNat / 16 % 16 := by
  simp only [thirdNibble, BitVec.extractLsb'_toNat, Nat.shiftRight_eq_div_pow]

theorem lastNibble_toNat (w : Word) : (lastNibble w).toNat = w.toNat % 16 := by
  simp only [lastNibble, BitVec.extractLsb'_toNat, Nat.shiftRight_eq_div_pow]; simp

theorem lastByte_toNat (w : Word) : (lastByte w).toNat = w.toNat % 256 := by
  simp only [lastByte, BitVec.extractLsb'_toNat, Nat.shiftRight_eq_div_pow]; simp

theorem addressField_toNat (w : Word) : (addressField w).toNat = w.toNat % 4096 := by
  simp only [addressField, BitVec.extractLsb'_toNat, Nat.shiftRight_eq_div_pow]; simp

@[simp] theorem leadingNibble_nibbles (a x y n : BitVec 4) : leadingNibble (wordOfNibbles a x y n) = a := by
  apply BitVec.eq_of_toNat_eq
  rw [leadingNibble_toNat, toNat_nibbles]; omega

@[simp] theorem secondNibble_nibbles (a x y n : BitVec 4) : secondNibble (wordOfNibbles a x y n) = x := by
  apply BitVec.eq_of_toNat_eq
  rw [secondNibble_toNat, toNat_nibbles]; omega

@[simp] theorem thirdNibble_nibbles (a x y n : BitVec 4) : thirdNibble (wordOfNibbles a x y n) = y := by
  apply BitVec.eq_of_toNat_eq
  rw [thirdNibble_toNat, toNat_nibbles]; omega

@[simp] theorem lastNibble_nibbles (a x y n : BitVec 4) : lastNibble (wordOfNibbles a x y n) = n := by
  apply BitVec.eq_of_toNat_eq
  rw [lastNibble_toNat, toNat_nibbles]; omega

@[simp] theorem lastByte_nibbles (a x y n : BitVec 4) : lastByte (wordOfNibbles a x y n) = y ++ n := by
  apply BitVec.eq_of_toNat_eq
  rw [lastByte_toNat, toNat_nibbles, toNat_append4]; omega

@[simp] theorem addressField_nibbles (a x y n : BitVec 4) :
    addressField (wordOfNibbles a x y n) = x ++ y ++ n := by
  apply BitVec.eq_of_toNat_eq
  rw [addressField_toNat, toNat_nibbles, toNat_append4, toNat_append4]; omega

/-- Every word is its four nibbles. -/
theorem word_eq_nibbles (w : Word) :
    w = wordOfNibbles (leadingNibble w) (secondNibble w) (thirdNibble w) (lastNibble w) := by
  apply BitVec.eq_of_toNat_eq
  rw [toNat_nibbles, leadingNibble_toNat, secondNibble_toNat, thirdNibble_toNat, lastNibble_toNat]; omega

theorem nibbles_inj {a x y n a' x' y' n' : BitVec 4} :
    wordOfNibbles a x y n = wordOfNibbles a' x' y' n' ↔ a = a' ∧ x = x' ∧ y = y' ∧ n = n' := by
  constructor
  · intro h
    exact ⟨by simpa using congrArg leadingNibble h, by simpa using congrArg secondNibble h,
      by simpa using congrArg thirdNibble h, by simpa using congrArg lastNibble h⟩
  · rintro ⟨rfl, rfl, rfl, rfl⟩; rfl

/-- Every byte is two nibbles. -/
theorem exists_byte_nibbles (k : Byte) : ∃ y n : BitVec 4, k = y ++ n := by
  refine ⟨k.extractLsb' 4 4, k.extractLsb' 0 4, BitVec.eq_of_toNat_eq ?_⟩
  simp only [toNat_append4, BitVec.extractLsb'_toNat, Nat.shiftRight_eq_div_pow]; omega

/-- Every address is three nibbles. -/
theorem exists_address_nibbles (k : BitVec 12) : ∃ x y n : BitVec 4, k = x ++ y ++ n := by
  refine ⟨k.extractLsb' 8 4, k.extractLsb' 4 4, k.extractLsb' 0 4, BitVec.eq_of_toNat_eq ?_⟩
  simp only [toNat_append4, BitVec.extractLsb'_toNat, Nat.shiftRight_eq_div_pow]; omega

/-! ## The encoder's formats as nibbles (R52, R66) -/

theorem getElem_nibbles (a x y n : BitVec 4) (i : Nat) (hi : i < 16) :
    (wordOfNibbles a x y n)[i] =
      if i < 4 then n.getLsbD i
      else if i - 4 < 4 then y.getLsbD (i - 4)
      else if i - 4 - 4 < 4 then x.getLsbD (i - 4 - 4)
      else a.getLsbD (i - 4 - 4 - 4) := by
  rw [← BitVec.getLsbD_eq_getElem]
  change (a ++ x ++ y ++ n : BitVec (4 + 4 + 4 + 4)).getLsbD i = _
  simp only [BitVec.getLsbD_append]

theorem getElem_append2 (y n : BitVec 4) (i : Nat) (hi : i < 8) :
    (y ++ n : BitVec 8)[i] = if i < 4 then n.getLsbD i else y.getLsbD (i - 4) := by
  rw [← BitVec.getLsbD_eq_getElem]
  simp only [BitVec.getLsbD_append]

theorem getElem_append3 (x y n : BitVec 4) (i : Nat) (hi : i < 12) :
    (x ++ y ++ n : BitVec 12)[i] =
      if i < 4 then n.getLsbD i
      else if i - 4 < 4 then y.getLsbD (i - 4)
      else x.getLsbD (i - 4 - 4) := by
  rw [← BitVec.getLsbD_eq_getElem]
  simp only [BitVec.getLsbD_append]

theorem encodeRRN_nibbles (f : BitVec 4) (x y : Register) (n : Constant4) :
    encodeRRN (wordOfNibbles f 0 0 0) x y n = wordOfNibbles f x.index y.index n.value := by
  ext i hi
  interval_cases i <;> simp [encodeRRN, getElem_nibbles]

theorem encodeRR_nibbles (f n : BitVec 4) (x y : Register) :
    encodeRR (wordOfNibbles f 0 0 n) x y = wordOfNibbles f x.index y.index n := by
  ext i hi
  interval_cases i <;> simp [encodeRR, getElem_nibbles]

theorem encodeR_nibbles (f y n : BitVec 4) (x : Register) :
    encodeR (wordOfNibbles f 0 y n) x = wordOfNibbles f x.index y n := by
  ext i hi
  interval_cases i <;> simp [encodeR, getElem_nibbles]

theorem encodeRC_nibbles (f y n : BitVec 4) (x : Register) :
    encodeRC (wordOfNibbles f 0 0 0) x ⟨y ++ n⟩ = wordOfNibbles f x.index y n := by
  ext i hi
  interval_cases i <;> simp [encodeRC, getElem_nibbles, getElem_append2]

theorem encodeA_nibbles (f x y n : BitVec 4) :
    encodeA (wordOfNibbles f 0 0 0) ⟨x ++ y ++ n⟩ = wordOfNibbles f x y n := by
  ext i hi
  interval_cases i <;> simp [encodeA, getElem_nibbles, getElem_append3]

/-! ## The two whole words (R71) -/

theorem nibbles_eq_00E0 (f x y n : BitVec 4) :
    wordOfNibbles f x y n = 0x00E0#16 ↔ f = 0#4 ∧ x = 0#4 ∧ y = 0xE#4 ∧ n = 0#4 := by
  rw [show 0x00E0#16 = wordOfNibbles 0#4 0#4 0xE#4 0#4 by decide, nibbles_inj]

theorem nibbles_eq_00EE (f x y n : BitVec 4) :
    wordOfNibbles f x y n = 0x00EE#16 ↔ f = 0#4 ∧ x = 0#4 ∧ y = 0xE#4 ∧ n = 0xE#4 := by
  rw [show 0x00EE#16 = wordOfNibbles 0#4 0#4 0xE#4 0xE#4 by decide, nibbles_inj]

/-- A word whose leading nibble is not 0 is decoded by the dispatch of step 2 (R72). -/
theorem decode_nibbles {f : BitVec 4} (h : f ≠ 0#4) (x y n : BitVec 4) :
    decode (wordOfNibbles f x y n) = decodeDispatch (wordOfNibbles f x y n) := by
  rw [decode, if_neg (by rw [nibbles_eq_00E0]; tauto), if_neg (by rw [nibbles_eq_00EE]; tauto)]

/-- A word with leading nibble 0 is one of the two whole words or invalid (R60). -/
theorem decode_nibbles_zero (x y n : BitVec 4) :
    decode (wordOfNibbles 0#4 x y n) =
      if x = 0#4 ∧ y = 0xE#4 ∧ n = 0#4 then some .clearDisplay
      else if x = 0#4 ∧ y = 0xE#4 ∧ n = 0xE#4 then some .ret else none := by
  simp [decode, nibbles_eq_00E0, nibbles_eq_00EE, decodeDispatch]

/-! ## The masks of the opcode table (R56) -/

theorem mask_F000 (f x y n : BitVec 4) : wordOfNibbles f x y n &&& 0xF000#16 = wordOfNibbles f 0 0 0 := by
  ext i hi
  interval_cases i <;> simp [getElem_nibbles]

theorem mask_F00F (f x y n : BitVec 4) : wordOfNibbles f x y n &&& 0xF00F#16 = wordOfNibbles f 0 0 n := by
  ext i hi
  interval_cases i <;> simp [getElem_nibbles]

theorem mask_F0FF (f x y n : BitVec 4) : wordOfNibbles f x y n &&& 0xF0FF#16 = wordOfNibbles f 0 y n := by
  ext i hi
  interval_cases i <;> simp [getElem_nibbles]

end Sys2Proof
end

