-- ==== Sys2Proof/Laws/Memory.lean ====
section
/-! SUPPORT. The laws of memory: a byte read after a write, a block read after a block write, and the canonical form
that every memory operation keeps. -/

namespace Sys2Proof.Machine

/-! ## One byte -/

theorem Memory.read_erase (m : Memory) (a b : Nat) :
    (m.erase a).read b = if b = a then 0 else m.read b := by
  induction m with
  | nil => simp [Memory.erase, Memory.read]
  | cons c m ih =>
    obtain ⟨k, u⟩ := c
    by_cases hk : k = a
    · subst hk
      have he : Memory.erase ((k, u) :: m) k = Memory.erase m k := by simp [Memory.erase]
      rw [he, ih]
      by_cases hb : b = k
      · simp [hb]
      · simp [Memory.read, hb, eq_comm]
    · have he : Memory.erase ((k, u) :: m) a = (k, u) :: Memory.erase m a := by simp [Memory.erase, hk]
      rw [he]
      simp only [Memory.read, ih]
      by_cases hb : k = b
      · subst hb; simp [hk]
      · simp [hb]

theorem Memory.read_insert (m : Memory) (a : Nat) (u : Byte) (b : Nat)
    (hm : ∀ c ∈ m, c.1 ≠ a) :
    (m.insert a u).read b = if b = a then u else m.read b := by
  induction m with
  | nil => simp only [Memory.insert, Memory.read, eq_comm (a := a)]
  | cons c m ih =>
    obtain ⟨k, w⟩ := c
    have hk : k ≠ a := hm (k, w) (by simp)
    have ih' := ih (fun c hc => hm c (by simp [hc]))
    unfold Memory.insert
    by_cases hlt : a < k
    · simp only [hlt, if_true, Memory.read, eq_comm (a := a)]
    · simp only [hlt, if_false, Memory.read, ih']
      by_cases hb : k = b
      · subst hb; simp [hk]
      · simp [hb]

/-- A byte read after a byte write: the byte written at that address, unchanged elsewhere. -/
@[simp] theorem Memory.read_write (m : Memory) (a : Nat) (u : Byte) (b : Nat) :
    (m.write a u).read b = if b = a then u else m.read b := by
  unfold Memory.write
  split
  · next h => rw [Memory.read_erase, h]
  · rw [Memory.read_insert _ _ _ _ (by
      intro c hc; simp [Memory.erase] at hc; exact hc.2), Memory.read_erase]
    by_cases hb : b = a <;> simp [hb]

/-! ## Blocks -/

/-- A byte read after a block write: the block's byte inside its window, unchanged outside. -/
theorem Memory.read_writeBlock (m : Memory) (base : Nat) (us : List Byte) (b : Nat) :
    (m.writeBlock base us).read b =
      if base ≤ b ∧ b < base + us.length then us.getD (b - base) 0 else m.read b := by
  induction us generalizing m base with
  | nil => simp [Memory.writeBlock]
  | cons u us ih =>
    rw [Memory.writeBlock, ih, Memory.read_write]
    by_cases h1 : b = base
    · subst h1; simp
    · by_cases h2 : base + 1 ≤ b ∧ b < base + 1 + us.length
      · have h3 : base ≤ b ∧ b < base + (u :: us).length := by simp; omega
        have h4 : b - base = (b - (base + 1)) + 1 := by omega
        simp only [h2, h3, and_self, if_true]
        rw [h4]; simp
      · have h3 : ¬ (base ≤ b ∧ b < base + (u :: us).length) := by simp; omega
        simp only [h2, h3, if_false, h1]

theorem Memory.read_writeBlock_outside (m : Memory) (base : Nat) (us : List Byte) (b : Nat)
    (h : b < base ∨ base + us.length ≤ b) : (m.writeBlock base us).read b = m.read b := by
  rw [Memory.read_writeBlock, if_neg (by omega)]

@[simp] theorem Memory.readBlock_length (m : Memory) (base n : Nat) : (m.readBlock base n).length = n := by
  induction n generalizing base with
  | zero => rfl
  | succ n ih => simp [Memory.readBlock, ih]

/-- The k-th byte of a block is the byte at base + k. -/
theorem Memory.readBlock_getD (m : Memory) (base n k : Nat) (h : k < n) :
    (m.readBlock base n).getD k 0 = m.read (base + k) := by
  induction n generalizing base k with
  | zero => omega
  | succ n ih =>
    cases k with
    | zero => simp [Memory.readBlock]
    | succ k =>
      simp only [Memory.readBlock, List.getD_cons_succ]
      rw [ih (base + 1) k (by omega)]
      congr 1; omega

theorem Memory.readBlock_eq_map (m : Memory) (base n : Nat) :
    m.readBlock base n = (List.range n).map (fun k => m.read (base + k)) := by
  induction n generalizing base with
  | zero => rfl
  | succ n ih =>
    rw [Memory.readBlock, ih, List.range_succ_eq_map]
    simp only [List.map_cons, List.map_map, Nat.add_zero]
    congr 1
    apply List.map_congr_left
    intro k _
    simp only [Function.comp]
    congr 1; omega

/-- A byte of the memory that holds the bytes from `base` up. -/
theorem Memory.read_ofBytes (base : Nat) (us : List Byte) (b : Nat) :
    (Memory.ofBytes base us).read b = if base ≤ b ∧ b < base + us.length then us.getD (b - base) 0 else 0 := by
  induction us generalizing base with
  | nil => simp [Memory.ofBytes, Memory.read]
  | cons u us ih =>
    have step : (Memory.ofBytes base (u :: us)).read b =
        if b = base then u else (Memory.ofBytes (base + 1) us).read b := by
      rw [Memory.ofBytes]
      split
      · next h =>
        split
        · next h' => subst h'; rw [ih, if_neg (by omega), h]
        · rfl
      · simp only [Memory.read, eq_comm (a := base)]
    rw [step, ih]
    by_cases h1 : b = base
    · subst h1; simp
    · by_cases h2 : base + 1 ≤ b ∧ b < base + 1 + us.length
      · have h3 : base ≤ b ∧ b < base + (u :: us).length := by simp; omega
        have h4 : b - base = (b - (base + 1)) + 1 := by omega
        simp only [h2, h3, and_self, if_true, h1, if_false]
        rw [h4]; simp
      · have h3 : ¬ (base ≤ b ∧ b < base + (u :: us).length) := by simp; omega
        simp only [h2, h3, if_false, h1]

/-! ## The canonical form -/

theorem Memory.wfFrom_cons (low a : Nat) (u : Byte) (m : Memory) :
    Memory.wfFrom low ((a, u) :: m) = true ↔
      low ≤ a ∧ a < 4096 ∧ u ≠ 0 ∧ Memory.wfFrom (a + 1) m = true := by
  simp [Memory.wfFrom, and_assoc]

theorem Memory.wfFrom_mono {low low' : Nat} {m : Memory} (h : low' ≤ low) (hm : Memory.wfFrom low m = true) :
    Memory.wfFrom low' m = true := by
  cases m with
  | nil => rfl
  | cons c m =>
    obtain ⟨a, u⟩ := c
    rw [Memory.wfFrom_cons] at hm ⊢
    exact ⟨by omega, hm.2⟩

theorem Memory.wfFrom_erase {low : Nat} {m : Memory} (a : Nat) (hm : Memory.wfFrom low m = true) :
    Memory.wfFrom low (m.erase a) = true := by
  induction m generalizing low with
  | nil => rfl
  | cons c m ih =>
    obtain ⟨k, u⟩ := c
    rw [Memory.wfFrom_cons] at hm
    have ih' := ih hm.2.2.2
    by_cases hk : k = a
    · have he : Memory.erase ((k, u) :: m) a = Memory.erase m a := by simp [Memory.erase, hk]
      rw [he]; exact Memory.wfFrom_mono (by omega) ih'
    · have he : Memory.erase ((k, u) :: m) a = (k, u) :: Memory.erase m a := by simp [Memory.erase, hk]
      rw [he, Memory.wfFrom_cons]; exact ⟨hm.1, hm.2.1, hm.2.2.1, ih'⟩

theorem Memory.wfFrom_insert {low : Nat} {m : Memory} {a : Nat} {u : Byte} (hm : Memory.wfFrom low m = true)
    (hl : low ≤ a) (ha : a < 4096) (hu : u ≠ 0) (hn : ∀ c ∈ m, c.1 ≠ a) :
    Memory.wfFrom low (m.insert a u) = true := by
  induction m generalizing low with
  | nil => rw [Memory.insert, Memory.wfFrom_cons]; exact ⟨hl, ha, hu, rfl⟩
  | cons c m ih =>
    obtain ⟨k, w⟩ := c
    rw [Memory.wfFrom_cons] at hm
    have hk : k ≠ a := hn (k, w) (by simp)
    unfold Memory.insert
    split
    · rw [Memory.wfFrom_cons, Memory.wfFrom_cons]
      exact ⟨hl, ha, hu, by omega, hm.2⟩
    · rw [Memory.wfFrom_cons]
      exact ⟨hm.1, hm.2.1, hm.2.2.1, ih hm.2.2.2 (by omega) (fun c hc => hn c (by simp [hc]))⟩

/-- A byte write inside memory keeps the canonical form. -/
theorem Memory.write_keeps_wf {m : Memory} (a : Nat) (u : Byte) (ha : a < 4096) (hm : m.wf = true) :
    (m.write a u).wf = true := by
  unfold Memory.write Memory.wf
  split
  · exact Memory.wfFrom_erase a hm
  · next h =>
    refine Memory.wfFrom_insert (Memory.wfFrom_erase a hm) (Nat.zero_le a) ha h ?_
    intro c hc; simp [Memory.erase] at hc; exact hc.2

/-- A block write inside memory keeps the canonical form. -/
theorem Memory.writeBlock_keeps_wf {m : Memory} (base : Nat) (us : List Byte) (h : base + us.length ≤ 4096)
    (hm : m.wf = true) : (m.writeBlock base us).wf = true := by
  induction us generalizing m base with
  | nil => exact hm
  | cons u us ih =>
    simp at h
    exact ih (base + 1) (by omega) (Memory.write_keeps_wf base u (by omega) hm)

theorem Memory.wfFrom_ofBytes (base : Nat) (us : List Byte) (h : base + us.length ≤ 4096) :
    Memory.wfFrom base (Memory.ofBytes base us) = true := by
  induction us generalizing base with
  | nil => rfl
  | cons u us ih =>
    simp at h
    have ih' := ih (base + 1) (by omega)
    unfold Memory.ofBytes
    split
    · exact Memory.wfFrom_mono (by omega) ih'
    · next hu => rw [Memory.wfFrom_cons]; exact ⟨le_refl _, by omega, hu, ih'⟩

/-- An image that fits gives a canonical memory. -/
theorem Memory.ofBytes_wf (base : Nat) (us : List Byte) (h : base + us.length ≤ 4096) :
    (Memory.ofBytes base us).wf = true :=
  Memory.wfFrom_mono (Nat.zero_le base) (Memory.wfFrom_ofBytes base us h)

end Sys2Proof.Machine
end

