-- ==== Sys2Proof/Laws/State.lean ====
section
/-! SUPPORT. One lemma per field per update of the state, so that no later proof unfolds a record update. -/

namespace Sys2Proof.Machine

/-! ## The configuration record (R5) -/

@[simp] theorem State.configuration_wordBits (s : State) : s.configuration.wordBits = 16 := rfl
@[simp] theorem State.configuration_memSize (s : State) : s.configuration.memSize = 4096 := rfl
@[simp] theorem State.configuration_addrBits (s : State) : s.configuration.addrBits = 12 := rfl
@[simp] theorem State.configuration_loadAddr (s : State) : s.configuration.loadAddr = 0x200 := rfl
@[simp] theorem State.configuration_maxImage (s : State) : s.configuration.maxImage = 3584 := rfl
@[simp] theorem State.configuration_numRegs (s : State) : s.configuration.numRegs = 16 := rfl
@[simp] theorem State.configuration_regBits (s : State) : s.configuration.regBits = 8 := rfl
@[simp] theorem State.configuration_timerBits (s : State) : s.configuration.timerBits = 8 := rfl
@[simp] theorem State.configuration_pcBits (s : State) : s.configuration.pcBits = 16 := rfl
@[simp] theorem State.configuration_iBits (s : State) : s.configuration.iBits = 16 := rfl
@[simp] theorem State.configuration_stackCap (s : State) : s.configuration.stackCap = 12 := rfl
@[simp] theorem State.configuration_stackEntryBits (s : State) : s.configuration.stackEntryBits = 16 := rfl
@[simp] theorem State.configuration_numVariants (s : State) : s.configuration.numVariants = 34 := rfl
@[simp] theorem State.configuration_toParams (s : State) : s.configuration.toParams = s.params := rfl

/-! ## `State.setV` -/

@[simp] theorem State.setV_mem (s : State) (r : Register) (u : Byte) : (s.setV r u).mem = s.mem := rfl
@[simp] theorem State.setV_v (s : State) (r : Register) (u : Byte) : (s.setV r u).v = s.v.set r.index.toNat u r.index.isLt := rfl
@[simp] theorem State.setV_dt (s : State) (r : Register) (u : Byte) : (s.setV r u).dt = s.dt := rfl
@[simp] theorem State.setV_st (s : State) (r : Register) (u : Byte) : (s.setV r u).st = s.st := rfl
@[simp] theorem State.setV_pc (s : State) (r : Register) (u : Byte) : (s.setV r u).pc = s.pc := rfl
@[simp] theorem State.setV_iReg (s : State) (r : Register) (u : Byte) : (s.setV r u).iReg = s.iReg := rfl
@[simp] theorem State.setV_stack (s : State) (r : Register) (u : Byte) : (s.setV r u).stack = s.stack := rfl
@[simp] theorem State.setV_sp (s : State) (r : Register) (u : Byte) : (s.setV r u).sp = s.sp := rfl
@[simp] theorem State.setV_params (s : State) (r : Register) (u : Byte) : (s.setV r u).params = s.params := rfl
@[simp] theorem State.setV_asked (s : State) (r : Register) (u : Byte) : (s.setV r u).asked = s.asked := rfl
@[simp] theorem State.setV_untilTick (s : State) (r : Register) (u : Byte) : (s.setV r u).untilTick = s.untilTick := rfl
@[simp] theorem State.setV_display (s : State) (r : Register) (u : Byte) : (s.setV r u).display = s.display := rfl

/-! ## `State.setResultFlag` -/

@[simp] theorem State.setResultFlag_mem (s : State) (x : Register) (u f : Byte) : (s.setResultFlag x u f).mem = s.mem := rfl
@[simp] theorem State.setResultFlag_dt (s : State) (x : Register) (u f : Byte) : (s.setResultFlag x u f).dt = s.dt := rfl
@[simp] theorem State.setResultFlag_st (s : State) (x : Register) (u f : Byte) : (s.setResultFlag x u f).st = s.st := rfl
@[simp] theorem State.setResultFlag_pc (s : State) (x : Register) (u f : Byte) : (s.setResultFlag x u f).pc = s.pc := rfl
@[simp] theorem State.setResultFlag_iReg (s : State) (x : Register) (u f : Byte) : (s.setResultFlag x u f).iReg = s.iReg := rfl
@[simp] theorem State.setResultFlag_stack (s : State) (x : Register) (u f : Byte) : (s.setResultFlag x u f).stack = s.stack := rfl
@[simp] theorem State.setResultFlag_sp (s : State) (x : Register) (u f : Byte) : (s.setResultFlag x u f).sp = s.sp := rfl
@[simp] theorem State.setResultFlag_params (s : State) (x : Register) (u f : Byte) : (s.setResultFlag x u f).params = s.params := rfl
@[simp] theorem State.setResultFlag_asked (s : State) (x : Register) (u f : Byte) : (s.setResultFlag x u f).asked = s.asked := rfl
@[simp] theorem State.setResultFlag_untilTick (s : State) (x : Register) (u f : Byte) : (s.setResultFlag x u f).untilTick = s.untilTick := rfl
@[simp] theorem State.setResultFlag_display (s : State) (x : Register) (u f : Byte) : (s.setResultFlag x u f).display = s.display := rfl

/-! ## `State.advance` -/

@[simp] theorem State.advance_mem (s : State) : s.advance.mem = s.mem := rfl
@[simp] theorem State.advance_v (s : State) : s.advance.v = s.v := rfl
@[simp] theorem State.advance_dt (s : State) : s.advance.dt = s.dt := rfl
@[simp] theorem State.advance_st (s : State) : s.advance.st = s.st := rfl
@[simp] theorem State.advance_pc (s : State) : s.advance.pc = s.pc + 2 := rfl
@[simp] theorem State.advance_iReg (s : State) : s.advance.iReg = s.iReg := rfl
@[simp] theorem State.advance_stack (s : State) : s.advance.stack = s.stack := rfl
@[simp] theorem State.advance_sp (s : State) : s.advance.sp = s.sp := rfl
@[simp] theorem State.advance_params (s : State) : s.advance.params = s.params := rfl
@[simp] theorem State.advance_asked (s : State) : s.advance.asked = s.asked := rfl
@[simp] theorem State.advance_untilTick (s : State) : s.advance.untilTick = s.untilTick := rfl
@[simp] theorem State.advance_display (s : State) : s.advance.display = s.display := rfl

/-! ## `State.skipIf` -/

@[simp] theorem State.skipIf_mem (s : State) (c : Bool) : (s.skipIf c).mem = s.mem := rfl
@[simp] theorem State.skipIf_v (s : State) (c : Bool) : (s.skipIf c).v = s.v := rfl
@[simp] theorem State.skipIf_dt (s : State) (c : Bool) : (s.skipIf c).dt = s.dt := rfl
@[simp] theorem State.skipIf_st (s : State) (c : Bool) : (s.skipIf c).st = s.st := rfl
@[simp] theorem State.skipIf_pc (s : State) (c : Bool) : (s.skipIf c).pc = if c then s.pc + 4 else s.pc + 2 := rfl
@[simp] theorem State.skipIf_iReg (s : State) (c : Bool) : (s.skipIf c).iReg = s.iReg := rfl
@[simp] theorem State.skipIf_stack (s : State) (c : Bool) : (s.skipIf c).stack = s.stack := rfl
@[simp] theorem State.skipIf_sp (s : State) (c : Bool) : (s.skipIf c).sp = s.sp := rfl
@[simp] theorem State.skipIf_params (s : State) (c : Bool) : (s.skipIf c).params = s.params := rfl
@[simp] theorem State.skipIf_asked (s : State) (c : Bool) : (s.skipIf c).asked = s.asked := rfl
@[simp] theorem State.skipIf_untilTick (s : State) (c : Bool) : (s.skipIf c).untilTick = s.untilTick := rfl
@[simp] theorem State.skipIf_display (s : State) (c : Bool) : (s.skipIf c).display = s.display := rfl

/-! ## `State.goto` -/

@[simp] theorem State.goto_mem (s : State) (t : Word) : (s.goto t).mem = s.mem := rfl
@[simp] theorem State.goto_v (s : State) (t : Word) : (s.goto t).v = s.v := rfl
@[simp] theorem State.goto_dt (s : State) (t : Word) : (s.goto t).dt = s.dt := rfl
@[simp] theorem State.goto_st (s : State) (t : Word) : (s.goto t).st = s.st := rfl
@[simp] theorem State.goto_pc (s : State) (t : Word) : (s.goto t).pc = t := rfl
@[simp] theorem State.goto_iReg (s : State) (t : Word) : (s.goto t).iReg = s.iReg := rfl
@[simp] theorem State.goto_stack (s : State) (t : Word) : (s.goto t).stack = s.stack := rfl
@[simp] theorem State.goto_sp (s : State) (t : Word) : (s.goto t).sp = s.sp := rfl
@[simp] theorem State.goto_params (s : State) (t : Word) : (s.goto t).params = s.params := rfl
@[simp] theorem State.goto_asked (s : State) (t : Word) : (s.goto t).asked = s.asked := rfl
@[simp] theorem State.goto_untilTick (s : State) (t : Word) : (s.goto t).untilTick = s.untilTick := rfl
@[simp] theorem State.goto_display (s : State) (t : Word) : (s.goto t).display = s.display := rfl

/-! ## `State.answered` -/

@[simp] theorem State.answered_mem (s : State) : s.answered.mem = s.mem := rfl
@[simp] theorem State.answered_v (s : State) : s.answered.v = s.v := rfl
@[simp] theorem State.answered_dt (s : State) : s.answered.dt = s.dt := rfl
@[simp] theorem State.answered_st (s : State) : s.answered.st = s.st := rfl
@[simp] theorem State.answered_pc (s : State) : s.answered.pc = s.pc := rfl
@[simp] theorem State.answered_iReg (s : State) : s.answered.iReg = s.iReg := rfl
@[simp] theorem State.answered_stack (s : State) : s.answered.stack = s.stack := rfl
@[simp] theorem State.answered_sp (s : State) : s.answered.sp = s.sp := rfl
@[simp] theorem State.answered_params (s : State) : s.answered.params = s.params := rfl
@[simp] theorem State.answered_asked (s : State) : s.answered.asked = s.asked + 1 := rfl
@[simp] theorem State.answered_untilTick (s : State) : s.answered.untilTick = s.untilTick := rfl
@[simp] theorem State.answered_display (s : State) : s.answered.display = s.display := rfl

/-! ## `State.emit` -/

@[simp] theorem State.emit_mem (s : State) (e : DisplayEvent) : (s.emit e).mem = s.mem := rfl
@[simp] theorem State.emit_v (s : State) (e : DisplayEvent) : (s.emit e).v = s.v := rfl
@[simp] theorem State.emit_dt (s : State) (e : DisplayEvent) : (s.emit e).dt = s.dt := rfl
@[simp] theorem State.emit_st (s : State) (e : DisplayEvent) : (s.emit e).st = s.st := rfl
@[simp] theorem State.emit_pc (s : State) (e : DisplayEvent) : (s.emit e).pc = s.pc := rfl
@[simp] theorem State.emit_iReg (s : State) (e : DisplayEvent) : (s.emit e).iReg = s.iReg := rfl
@[simp] theorem State.emit_stack (s : State) (e : DisplayEvent) : (s.emit e).stack = s.stack := rfl
@[simp] theorem State.emit_sp (s : State) (e : DisplayEvent) : (s.emit e).sp = s.sp := rfl
@[simp] theorem State.emit_params (s : State) (e : DisplayEvent) : (s.emit e).params = s.params := rfl
@[simp] theorem State.emit_asked (s : State) (e : DisplayEvent) : (s.emit e).asked = s.asked := rfl
@[simp] theorem State.emit_untilTick (s : State) (e : DisplayEvent) : (s.emit e).untilTick = s.untilTick := rfl
@[simp] theorem State.emit_display (s : State) (e : DisplayEvent) : (s.emit e).display = s.display ++ [e] := rfl

/-! ## `State.storeBytes` -/

@[simp] theorem State.storeBytes_mem (s : State) (base : Nat) (us : List Byte) : (s.storeBytes base us).mem = s.mem.writeBlock base us := rfl
@[simp] theorem State.storeBytes_v (s : State) (base : Nat) (us : List Byte) : (s.storeBytes base us).v = s.v := rfl
@[simp] theorem State.storeBytes_dt (s : State) (base : Nat) (us : List Byte) : (s.storeBytes base us).dt = s.dt := rfl
@[simp] theorem State.storeBytes_st (s : State) (base : Nat) (us : List Byte) : (s.storeBytes base us).st = s.st := rfl
@[simp] theorem State.storeBytes_pc (s : State) (base : Nat) (us : List Byte) : (s.storeBytes base us).pc = s.pc := rfl
@[simp] theorem State.storeBytes_iReg (s : State) (base : Nat) (us : List Byte) : (s.storeBytes base us).iReg = s.iReg := rfl
@[simp] theorem State.storeBytes_stack (s : State) (base : Nat) (us : List Byte) : (s.storeBytes base us).stack = s.stack := rfl
@[simp] theorem State.storeBytes_sp (s : State) (base : Nat) (us : List Byte) : (s.storeBytes base us).sp = s.sp := rfl
@[simp] theorem State.storeBytes_params (s : State) (base : Nat) (us : List Byte) : (s.storeBytes base us).params = s.params := rfl
@[simp] theorem State.storeBytes_asked (s : State) (base : Nat) (us : List Byte) : (s.storeBytes base us).asked = s.asked := rfl
@[simp] theorem State.storeBytes_untilTick (s : State) (base : Nat) (us : List Byte) : (s.storeBytes base us).untilTick = s.untilTick := rfl
@[simp] theorem State.storeBytes_display (s : State) (base : Nat) (us : List Byte) : (s.storeBytes base us).display = s.display := rfl

/-! ## `State.setI` -/

@[simp] theorem State.setI_mem (s : State) (a : Word) : (s.setI a).mem = s.mem := rfl
@[simp] theorem State.setI_v (s : State) (a : Word) : (s.setI a).v = s.v := rfl
@[simp] theorem State.setI_dt (s : State) (a : Word) : (s.setI a).dt = s.dt := rfl
@[simp] theorem State.setI_st (s : State) (a : Word) : (s.setI a).st = s.st := rfl
@[simp] theorem State.setI_pc (s : State) (a : Word) : (s.setI a).pc = s.pc := rfl
@[simp] theorem State.setI_iReg (s : State) (a : Word) : (s.setI a).iReg = a := rfl
@[simp] theorem State.setI_stack (s : State) (a : Word) : (s.setI a).stack = s.stack := rfl
@[simp] theorem State.setI_sp (s : State) (a : Word) : (s.setI a).sp = s.sp := rfl
@[simp] theorem State.setI_params (s : State) (a : Word) : (s.setI a).params = s.params := rfl
@[simp] theorem State.setI_asked (s : State) (a : Word) : (s.setI a).asked = s.asked := rfl
@[simp] theorem State.setI_untilTick (s : State) (a : Word) : (s.setI a).untilTick = s.untilTick := rfl
@[simp] theorem State.setI_display (s : State) (a : Word) : (s.setI a).display = s.display := rfl
@[simp] theorem State.setI_getV (s : State) (a : Word) (r : Register) : (s.setI a).getV r = s.getV r := rfl

/-! ## `State.setDT` -/

@[simp] theorem State.setDT_mem (s : State) (u : Byte) : (s.setDT u).mem = s.mem := rfl
@[simp] theorem State.setDT_v (s : State) (u : Byte) : (s.setDT u).v = s.v := rfl
@[simp] theorem State.setDT_dt (s : State) (u : Byte) : (s.setDT u).dt = u := rfl
@[simp] theorem State.setDT_st (s : State) (u : Byte) : (s.setDT u).st = s.st := rfl
@[simp] theorem State.setDT_pc (s : State) (u : Byte) : (s.setDT u).pc = s.pc := rfl
@[simp] theorem State.setDT_iReg (s : State) (u : Byte) : (s.setDT u).iReg = s.iReg := rfl
@[simp] theorem State.setDT_stack (s : State) (u : Byte) : (s.setDT u).stack = s.stack := rfl
@[simp] theorem State.setDT_sp (s : State) (u : Byte) : (s.setDT u).sp = s.sp := rfl
@[simp] theorem State.setDT_params (s : State) (u : Byte) : (s.setDT u).params = s.params := rfl
@[simp] theorem State.setDT_asked (s : State) (u : Byte) : (s.setDT u).asked = s.asked := rfl
@[simp] theorem State.setDT_untilTick (s : State) (u : Byte) : (s.setDT u).untilTick = s.untilTick := rfl
@[simp] theorem State.setDT_display (s : State) (u : Byte) : (s.setDT u).display = s.display := rfl
@[simp] theorem State.setDT_getV (s : State) (u : Byte) (r : Register) : (s.setDT u).getV r = s.getV r := rfl

/-! ## `State.setST` -/

@[simp] theorem State.setST_mem (s : State) (u : Byte) : (s.setST u).mem = s.mem := rfl
@[simp] theorem State.setST_v (s : State) (u : Byte) : (s.setST u).v = s.v := rfl
@[simp] theorem State.setST_dt (s : State) (u : Byte) : (s.setST u).dt = s.dt := rfl
@[simp] theorem State.setST_st (s : State) (u : Byte) : (s.setST u).st = u := rfl
@[simp] theorem State.setST_pc (s : State) (u : Byte) : (s.setST u).pc = s.pc := rfl
@[simp] theorem State.setST_iReg (s : State) (u : Byte) : (s.setST u).iReg = s.iReg := rfl
@[simp] theorem State.setST_stack (s : State) (u : Byte) : (s.setST u).stack = s.stack := rfl
@[simp] theorem State.setST_sp (s : State) (u : Byte) : (s.setST u).sp = s.sp := rfl
@[simp] theorem State.setST_params (s : State) (u : Byte) : (s.setST u).params = s.params := rfl
@[simp] theorem State.setST_asked (s : State) (u : Byte) : (s.setST u).asked = s.asked := rfl
@[simp] theorem State.setST_untilTick (s : State) (u : Byte) : (s.setST u).untilTick = s.untilTick := rfl
@[simp] theorem State.setST_display (s : State) (u : Byte) : (s.setST u).display = s.display := rfl
@[simp] theorem State.setST_getV (s : State) (u : Byte) (r : Register) : (s.setST u).getV r = s.getV r := rfl

/-! ## `State.loadRegs` -/

@[simp] theorem State.loadRegs_mem (s : State) (us : List Byte) : (s.loadRegs us).mem = s.mem := rfl
@[simp] theorem State.loadRegs_v (s : State) (us : List Byte) : (s.loadRegs us).v = writeRegs s.v 0 us := rfl
@[simp] theorem State.loadRegs_dt (s : State) (us : List Byte) : (s.loadRegs us).dt = s.dt := rfl
@[simp] theorem State.loadRegs_st (s : State) (us : List Byte) : (s.loadRegs us).st = s.st := rfl
@[simp] theorem State.loadRegs_pc (s : State) (us : List Byte) : (s.loadRegs us).pc = s.pc := rfl
@[simp] theorem State.loadRegs_iReg (s : State) (us : List Byte) : (s.loadRegs us).iReg = s.iReg := rfl
@[simp] theorem State.loadRegs_stack (s : State) (us : List Byte) : (s.loadRegs us).stack = s.stack := rfl
@[simp] theorem State.loadRegs_sp (s : State) (us : List Byte) : (s.loadRegs us).sp = s.sp := rfl
@[simp] theorem State.loadRegs_params (s : State) (us : List Byte) : (s.loadRegs us).params = s.params := rfl
@[simp] theorem State.loadRegs_asked (s : State) (us : List Byte) : (s.loadRegs us).asked = s.asked := rfl
@[simp] theorem State.loadRegs_untilTick (s : State) (us : List Byte) : (s.loadRegs us).untilTick = s.untilTick := rfl
@[simp] theorem State.loadRegs_display (s : State) (us : List Byte) : (s.loadRegs us).display = s.display := rfl

/-! ## `State.withStack` -/

@[simp] theorem State.withStack_mem (s : State) (e : Vector Word 12) (d : Fin 13) : (s.withStack e d).mem = s.mem := rfl
@[simp] theorem State.withStack_v (s : State) (e : Vector Word 12) (d : Fin 13) : (s.withStack e d).v = s.v := rfl
@[simp] theorem State.withStack_dt (s : State) (e : Vector Word 12) (d : Fin 13) : (s.withStack e d).dt = s.dt := rfl
@[simp] theorem State.withStack_st (s : State) (e : Vector Word 12) (d : Fin 13) : (s.withStack e d).st = s.st := rfl
@[simp] theorem State.withStack_pc (s : State) (e : Vector Word 12) (d : Fin 13) : (s.withStack e d).pc = s.pc := rfl
@[simp] theorem State.withStack_iReg (s : State) (e : Vector Word 12) (d : Fin 13) : (s.withStack e d).iReg = s.iReg := rfl
@[simp] theorem State.withStack_stack (s : State) (e : Vector Word 12) (d : Fin 13) : (s.withStack e d).stack = e := rfl
@[simp] theorem State.withStack_sp (s : State) (e : Vector Word 12) (d : Fin 13) : (s.withStack e d).sp = d := rfl
@[simp] theorem State.withStack_params (s : State) (e : Vector Word 12) (d : Fin 13) : (s.withStack e d).params = s.params := rfl
@[simp] theorem State.withStack_asked (s : State) (e : Vector Word 12) (d : Fin 13) : (s.withStack e d).asked = s.asked := rfl
@[simp] theorem State.withStack_untilTick (s : State) (e : Vector Word 12) (d : Fin 13) : (s.withStack e d).untilTick = s.untilTick := rfl
@[simp] theorem State.withStack_display (s : State) (e : Vector Word 12) (d : Fin 13) : (s.withStack e d).display = s.display := rfl
@[simp] theorem State.withStack_getV (s : State) (e : Vector Word 12) (d : Fin 13) (r : Register) : (s.withStack e d).getV r = s.getV r := rfl

/-! ## `tick` -/

@[simp] theorem tick_mem (s : State) : (tick s).mem = s.mem := rfl
@[simp] theorem tick_v (s : State) : (tick s).v = s.v := rfl
@[simp] theorem tick_dt (s : State) : (tick s).dt = tickTimer s.dt := rfl
@[simp] theorem tick_st (s : State) : (tick s).st = tickTimer s.st := rfl
@[simp] theorem tick_pc (s : State) : (tick s).pc = s.pc := rfl
@[simp] theorem tick_iReg (s : State) : (tick s).iReg = s.iReg := rfl
@[simp] theorem tick_stack (s : State) : (tick s).stack = s.stack := rfl
@[simp] theorem tick_sp (s : State) : (tick s).sp = s.sp := rfl
@[simp] theorem tick_params (s : State) : (tick s).params = s.params := rfl
@[simp] theorem tick_asked (s : State) : (tick s).asked = s.asked := rfl
@[simp] theorem tick_untilTick (s : State) : (tick s).untilTick = s.untilTick := rfl
@[simp] theorem tick_display (s : State) : (tick s).display = s.display := rfl

/-! ## `State.setLogicResult`, which branches -/

@[simp] theorem State.setLogicResult_mem (s : State) (x : Register) (u : Byte) :
    (s.setLogicResult x u).mem = s.mem := by
  unfold State.setLogicResult; split <;> rfl
@[simp] theorem State.setLogicResult_dt (s : State) (x : Register) (u : Byte) :
    (s.setLogicResult x u).dt = s.dt := by
  unfold State.setLogicResult; split <;> rfl
@[simp] theorem State.setLogicResult_st (s : State) (x : Register) (u : Byte) :
    (s.setLogicResult x u).st = s.st := by
  unfold State.setLogicResult; split <;> rfl
@[simp] theorem State.setLogicResult_pc (s : State) (x : Register) (u : Byte) :
    (s.setLogicResult x u).pc = s.pc := by
  unfold State.setLogicResult; split <;> rfl
@[simp] theorem State.setLogicResult_iReg (s : State) (x : Register) (u : Byte) :
    (s.setLogicResult x u).iReg = s.iReg := by
  unfold State.setLogicResult; split <;> rfl
@[simp] theorem State.setLogicResult_stack (s : State) (x : Register) (u : Byte) :
    (s.setLogicResult x u).stack = s.stack := by
  unfold State.setLogicResult; split <;> rfl
@[simp] theorem State.setLogicResult_sp (s : State) (x : Register) (u : Byte) :
    (s.setLogicResult x u).sp = s.sp := by
  unfold State.setLogicResult; split <;> rfl
@[simp] theorem State.setLogicResult_params (s : State) (x : Register) (u : Byte) :
    (s.setLogicResult x u).params = s.params := by
  unfold State.setLogicResult; split <;> rfl
@[simp] theorem State.setLogicResult_asked (s : State) (x : Register) (u : Byte) :
    (s.setLogicResult x u).asked = s.asked := by
  unfold State.setLogicResult; split <;> rfl
@[simp] theorem State.setLogicResult_untilTick (s : State) (x : Register) (u : Byte) :
    (s.setLogicResult x u).untilTick = s.untilTick := by
  unfold State.setLogicResult; split <;> rfl
@[simp] theorem State.setLogicResult_display (s : State) (x : Register) (u : Byte) :
    (s.setLogicResult x u).display = s.display := by
  unfold State.setLogicResult; split <;> rfl


/-! ## Turns -/

@[simp] theorem tickTurn_mem (s : State) : (tickTurn s).mem = s.mem := rfl
@[simp] theorem tickTurn_v (s : State) : (tickTurn s).v = s.v := rfl
@[simp] theorem tickTurn_dt (s : State) : (tickTurn s).dt = tickTimer s.dt := rfl
@[simp] theorem tickTurn_st (s : State) : (tickTurn s).st = tickTimer s.st := rfl
@[simp] theorem tickTurn_pc (s : State) : (tickTurn s).pc = s.pc := rfl
@[simp] theorem tickTurn_iReg (s : State) : (tickTurn s).iReg = s.iReg := rfl
@[simp] theorem tickTurn_stack (s : State) : (tickTurn s).stack = s.stack := rfl
@[simp] theorem tickTurn_sp (s : State) : (tickTurn s).sp = s.sp := rfl
@[simp] theorem tickTurn_params (s : State) : (tickTurn s).params = s.params := rfl
@[simp] theorem tickTurn_asked (s : State) : (tickTurn s).asked = s.asked + 1 := rfl
@[simp] theorem tickTurn_untilTick (s : State) : (tickTurn s).untilTick = none := rfl
@[simp] theorem tickTurn_display (s : State) : (tickTurn s).display = s.display := rfl
@[simp] theorem tickTurn_getV (s : State) (r : Register) : (tickTurn s).getV r = s.getV r := rfl

@[simp] theorem coreTurn_mem (s : State) : (coreTurn s).mem = s.mem := by unfold coreTurn; split <;> rfl
@[simp] theorem coreTurn_v (s : State) : (coreTurn s).v = s.v := by unfold coreTurn; split <;> rfl
@[simp] theorem coreTurn_dt (s : State) : (coreTurn s).dt = s.dt := by unfold coreTurn; split <;> rfl
@[simp] theorem coreTurn_st (s : State) : (coreTurn s).st = s.st := by unfold coreTurn; split <;> rfl
@[simp] theorem coreTurn_pc (s : State) : (coreTurn s).pc = s.pc := by unfold coreTurn; split <;> rfl
@[simp] theorem coreTurn_iReg (s : State) : (coreTurn s).iReg = s.iReg := by unfold coreTurn; split <;> rfl
@[simp] theorem coreTurn_stack (s : State) : (coreTurn s).stack = s.stack := by unfold coreTurn; split <;> rfl
@[simp] theorem coreTurn_sp (s : State) : (coreTurn s).sp = s.sp := by unfold coreTurn; split <;> rfl
@[simp] theorem coreTurn_params (s : State) : (coreTurn s).params = s.params := by unfold coreTurn; split <;> rfl
@[simp] theorem coreTurn_display (s : State) : (coreTurn s).display = s.display := by unfold coreTurn; split <;> rfl
@[simp] theorem coreTurn_getV (s : State) (r : Register) : (coreTurn s).getV r = s.getV r := by
  simp [State.getV]

@[simp] theorem giveCoreTurn_mem (s : State) : (giveCoreTurn s).mem = s.mem := by unfold giveCoreTurn; split <;> rfl
@[simp] theorem giveCoreTurn_v (s : State) : (giveCoreTurn s).v = s.v := by unfold giveCoreTurn; split <;> rfl
@[simp] theorem giveCoreTurn_dt (s : State) : (giveCoreTurn s).dt = s.dt := by unfold giveCoreTurn; split <;> rfl
@[simp] theorem giveCoreTurn_st (s : State) : (giveCoreTurn s).st = s.st := by unfold giveCoreTurn; split <;> rfl
@[simp] theorem giveCoreTurn_pc (s : State) : (giveCoreTurn s).pc = s.pc := by unfold giveCoreTurn; split <;> rfl
@[simp] theorem giveCoreTurn_iReg (s : State) : (giveCoreTurn s).iReg = s.iReg := by unfold giveCoreTurn; split <;> rfl
@[simp] theorem giveCoreTurn_stack (s : State) : (giveCoreTurn s).stack = s.stack := by unfold giveCoreTurn; split <;> rfl
@[simp] theorem giveCoreTurn_sp (s : State) : (giveCoreTurn s).sp = s.sp := by unfold giveCoreTurn; split <;> rfl
@[simp] theorem giveCoreTurn_params (s : State) : (giveCoreTurn s).params = s.params := by unfold giveCoreTurn; split <;> rfl
@[simp] theorem giveCoreTurn_asked (s : State) : (giveCoreTurn s).asked = s.asked := by unfold giveCoreTurn; split <;> rfl
@[simp] theorem giveCoreTurn_display (s : State) : (giveCoreTurn s).display = s.display := by unfold giveCoreTurn; split <;> rfl
@[simp] theorem giveCoreTurn_getV (s : State) (r : Register) : (giveCoreTurn s).getV r = s.getV r := by
  simp [State.getV]

@[simp] theorem stepsLeft_some {s : State} {n : Nat} (h : s.untilTick = some n) : stepsLeft s = n := by
  simp [stepsLeft, h]
@[simp] theorem stepsLeft_none {s : State} (h : s.untilTick = none) : stepsLeft s = Config.tickGap s.asked := by
  simp [stepsLeft, h]

/-- A timer runs unless both are at 0. -/
theorem timerRuns_eq_false {s : State} : timerRuns s = false ↔ s.dt = 0 ∧ s.st = 0 := by simp [timerRuns]

/-- With both timers at 0 no tick is due, and the core's turn begins with the number of core steps before the next
tick open (R97). -/
theorem timersOff {s : State} (hd : s.dt = 0) (hs : s.st = 0) :
    timerRuns s = false ∧ tickDue s = false ∧ coreTurn s = { s with untilTick := none } := by
  have h := timerRuns_eq_false.2 ⟨hd, hs⟩
  exact ⟨h, by simp [tickDue, h], by simp [coreTurn, h]⟩

/-- While a timer runs, the core's turn takes one from the core steps left before the next tick. -/
theorem coreTurn_running {s : State} (h : timerRuns s = true) :
    (coreTurn s).untilTick = some (stepsLeft s - 1) ∧ stepsLeft (coreTurn s) = stepsLeft s - 1 := by
  have hu : (coreTurn s).untilTick = some (stepsLeft s - 1) := by
    unfold coreTurn stepsLeft
    split <;> simp_all
  exact ⟨hu, stepsLeft_some hu⟩

/-- The core's turn takes a free answer only where it draws the number of core steps before the next tick. -/
theorem coreTurn_asked (s : State) :
    (coreTurn s).asked = if timerRuns s ∧ s.untilTick = none then s.asked + 1 else s.asked := by
  unfold coreTurn
  split <;> simp_all [State.answered]

/-- After `giveCoreTurn` it is the core's turn. -/
@[simp] theorem tickDue_giveCoreTurn (s : State) : tickDue (giveCoreTurn s) = false := by
  unfold giveCoreTurn
  split
  · simp [tickDue, stepsLeft]
  · next h => simpa using h

/-! ## Reading a register of an updated state -/

@[simp] theorem State.advance_getV (s : State) (r : Register) : s.advance.getV r = s.getV r := rfl
@[simp] theorem State.skipIf_getV (s : State) (c : Bool) (r : Register) : (s.skipIf c).getV r = s.getV r := rfl
@[simp] theorem State.goto_getV (s : State) (t : Word) (r : Register) : (s.goto t).getV r = s.getV r := rfl
@[simp] theorem State.answered_getV (s : State) (r : Register) : s.answered.getV r = s.getV r := rfl
@[simp] theorem State.emit_getV (s : State) (e : DisplayEvent) (r : Register) : (s.emit e).getV r = s.getV r := rfl
@[simp] theorem State.storeBytes_getV (s : State) (base : Nat) (us : List Byte) (r : Register) :
    (s.storeBytes base us).getV r = s.getV r := rfl
@[simp] theorem tick_getV (s : State) (r : Register) : (tick s).getV r = s.getV r := rfl

/-- Two registers are the same when their numbers are. -/
theorem Register.eq_iff_toNat (q r : Register) : q = r ↔ q.index.toNat = r.index.toNat := by
  cases q; cases r; simp [BitVec.toNat_eq]

/-- A register read after a register write (R11). -/
@[simp] theorem State.setV_getV (s : State) (q r : Register) (u : Byte) :
    (s.setV q u).getV r = if r = q then u else s.getV r := by
  simp only [State.getV, State.setV, Vector.getElem_set, Register.eq_iff_toNat]
  by_cases h : q.index.toNat = r.index.toNat <;> simp [h, eq_comm]

/-- A register read after a result and a flag are written: the flag wins (R158). -/
@[simp] theorem State.setResultFlag_getV (s : State) (x r : Register) (u f : Byte) :
    (s.setResultFlag x u f).getV r = if r = regVF then f else if r = x then u else s.getV r := by
  simp [State.setResultFlag]

/-- A register read after a logic result is written (R143, D16). -/
@[simp] theorem State.setLogicResult_getV (s : State) (x r : Register) (u : Byte) :
    (s.setLogicResult x u).getV r =
      if s.params.logicResetsVF = true ∧ r = regVF then 0 else if r = x then u else s.getV r := by
  unfold State.setLogicResult
  by_cases h : s.params.logicResetsVF = true <;> simp [h]

end Sys2Proof.Machine
end

