-- ==== Sys2Proof/Laws/Ops.lean ====
section
/-! SUPPORT. One lemma per shared operation that says everything it can do. -/

namespace Sys2Proof.Machine

/-! ## Memory accesses (R36, R37) -/

theorem inBounds_iff (base n : Nat) : inBounds base n = true ↔ n = 0 ∨ base + n ≤ 4096 := by
  simp [inBounds]

theorem withBounds_ok {base n : Nat} (h : n = 0 ∨ base + n ≤ 4096) (r : Result) : withBounds base n r = r := by
  rw [withBounds, if_pos ((inBounds_iff base n).2 h)]

theorem withBounds_fault {base n : Nat} (h0 : n ≠ 0) (h : 4096 < base + n) (r : Result) :
    withBounds base n r = .fault (.memoryOutOfBounds (max base 0x1000)) := by
  have hb : ¬ inBounds base n = true := by rw [inBounds_iff]; omega
  rw [withBounds, if_neg hb, raise]

/-- What `withBounds` can answer: the result, all addresses in bounds, or the one fault. -/
theorem withBounds_cases (base n : Nat) (r : Result) :
    ((n = 0 ∨ base + n ≤ 4096) ∧ withBounds base n r = r) ∨
      (n ≠ 0 ∧ 4096 < base + n ∧ withBounds base n r = .fault (.memoryOutOfBounds (max base 0x1000))) := by
  by_cases h : n = 0 ∨ base + n ≤ 4096
  · exact .inl ⟨h, withBounds_ok h r⟩
  · exact .inr ⟨by omega, by omega, withBounds_fault (by omega) (by omega) r⟩

theorem memRead_ok {s : State} {a : Nat} (h : a ≤ 0xFFF) : memRead s a = .ok (s.mem.read a) := if_pos h

/-! ## Registers (R187) -/

/-- The registers after a run of bytes is written from register k up. -/
theorem writeRegs_getElem (v : Vector Byte 16) (k : Nat) (us : List Byte) (q : Nat) (hq : q < 16) :
    (writeRegs v k us)[q] = if k ≤ q ∧ q < k + us.length then us.getD (q - k) 0 else v[q] := by
  induction us generalizing v k with
  | nil => rw [writeRegs, if_neg (by simp)]
  | cons u us ih =>
    rw [writeRegs, ih, Vector.getElem_setIfInBounds]
    by_cases h1 : k = q
    · subst h1; simp
    · by_cases h2 : k + 1 ≤ q ∧ q < k + 1 + us.length
      · have h3 : k ≤ q ∧ q < k + (u :: us).length := by simp; omega
        have h4 : q - k = (q - (k + 1)) + 1 := by omega
        simp only [h2, h3, and_self, if_true]
        rw [h4]; simp
      · have h3 : ¬ (k ≤ q ∧ q < k + (u :: us).length) := by simp; omega
        simp only [h2, h3, if_false, h1]

/-- A register read after a run of bytes is written from `V[0]` up (R187). -/
@[simp] theorem State.loadRegs_getV (s : State) (us : List Byte) (r : Register) :
    (s.loadRegs us).getV r = if r.index.toNat < us.length then us.getD r.index.toNat 0 else s.getV r := by
  simp [State.getV, State.loadRegs, writeRegs_getElem]

@[simp] theorem contextBytes_length (s : State) (x : Register) : (contextBytes s x).length = contextCount x := by
  have := x.index.isLt
  simp [contextBytes, contextCount]; omega

/-- The k-th byte `ContextStore` stores is `V[k]` (R185). -/
theorem contextBytes_getD (s : State) (x r : Register) (h : r.index.toNat ≤ x.index.toNat) :
    (contextBytes s x).getD r.index.toNat 0 = s.getV r := by
  have hr := r.index.isLt
  have hlt : r.index.toNat < contextCount x := by simp [contextCount]; omega
  have hv : s.v[r.index.toNat]? = some s.v[r.index.toNat] := Vector.getElem?_eq_getElem hr
  simp [contextBytes, List.getD_eq_getElem?_getD, hlt, State.getV, hv]

/-! ## Stack (R101, R105) -/

theorem pushThen_room {s : State} (h : s.sp.val < 12) (t : Word) (k : State → Result) :
    pushThen s t k = k (s.withStack (s.stack.set s.sp.val t h) ⟨s.sp.val + 1, by omega⟩) :=
  dif_pos h

theorem pushThen_full {s : State} (h : s.sp.val = 12) (t : Word) (k : State → Result) :
    pushThen s t k = .fault (.stackOverflow s.pc) := dif_neg (by omega)

theorem popThen_live {s : State} (h : s.sp.val ≠ 0) (k : State → Word → Result) :
    popThen s k = k (s.withStack s.stack ⟨s.sp.val - 1, by omega⟩) s.top := if_neg h

theorem popThen_empty {s : State} (h : s.sp.val = 0) (k : State → Word → Result) :
    popThen s k = .fault (.stackUnderflow s.pc) := if_pos h

/-! ## Timers (R97) -/

theorem tickTimer_toNat (u : Byte) : (tickTimer u).toNat = u.toNat - 1 := by
  revert u; decide

/-- A tick leaves a machine with both timers at 0 as it is (R97). -/
theorem tick_off {s : State} (hd : s.dt = 0) (hs : s.st = 0) : tick s = s := by
  cases s; simp_all [tick, tickTimer]

/-! ## Fetch (R91, R92) -/

theorem fetchable_iff (pc : Word) : fetchable pc = true ↔ 0x200 ≤ pc.toNat ∧ pc.toNat ≤ 0xFFE := by
  simp [fetchable]

theorem fetch_ok {s : State} (h : fetchable s.pc = true) :
    fetch s = .ok (wordOfBytes (s.mem.read s.pc.toNat) (s.mem.read (s.pc.toNat + 1))) := by
  have h' := (fetchable_iff s.pc).1 h
  simp [fetch, h, memRead2, memRead_ok (s := s) (a := s.pc.toNat) (by omega),
    memRead_ok (s := s) (a := s.pc.toNat + 1) (by omega)]

theorem fetch_outOfRange {s : State} (h : fetchable s.pc = false) : fetch s = .error (.pcOutOfRange s.pc) := by
  simp [fetch, h]

/-- What `fetchInstr` can answer (R209): one of the two faults, in order, or the decoded instruction. -/
theorem fetchInstr_cases (s : State) :
    (fetchable s.pc = false ∧ fetchInstr s = .error (.pcOutOfRange s.pc)) ∨
      (fetchable s.pc = true ∧ ∃ w, w = wordOfBytes (s.mem.read s.pc.toNat) (s.mem.read (s.pc.toNat + 1)) ∧
        ((decode w = none ∧ fetchInstr s = .error (.invalidOpcode s.pc w)) ∨
          ∃ i, decode w = some i ∧ fetchInstr s = .ok i)) := by
  cases h : fetchable s.pc with
  | false => exact .inl ⟨rfl, by rw [fetchInstr, fetch_outOfRange h]⟩
  | true =>
    refine .inr ⟨rfl, _, rfl, ?_⟩
    cases hd : decode (wordOfBytes (s.mem.read s.pc.toNat) (s.mem.read (s.pc.toNat + 1))) with
    | none => exact .inl ⟨rfl, by rw [fetchInstr, fetch_ok h]; simp [hd]⟩
    | some i => exact .inr ⟨i, rfl, by rw [fetchInstr, fetch_ok h]; simp [hd]⟩

/-- What a step of the core can do (R92). -/
theorem coreStep_cases (s : State) :
    (∃ f, fetchInstr s = .error f ∧ coreStep s = .fault f) ∨
      ∃ i, fetchInstr s = .ok i ∧ coreStep s = exec i s := by
  cases h : fetchInstr s with
  | error f => exact .inl ⟨f, rfl, by rw [coreStep, h]; rfl⟩
  | ok i => exact .inr ⟨i, rfl, by rw [coreStep, h]⟩

/-- A core step that answers a next state ran an instruction that was fetched inside 0x200 to 0xFFE. -/
theorem coreStep_next {s t : State} (h : coreStep s = .next t) :
    (0x200 ≤ s.pc.toNat ∧ s.pc.toNat ≤ 0xFFE) ∧ ∃ i, fetchInstr s = .ok i ∧ exec i s = .next t := by
  rcases coreStep_cases s with ⟨f, _, hc⟩ | ⟨i, hi, hc⟩
  · rw [hc] at h; cases h
  · refine ⟨?_, i, hi, by rw [← hc]; exact h⟩
    rcases fetchInstr_cases s with ⟨_, hf⟩ | ⟨hf, _⟩
    · rw [hf] at hi; cases hi
    · simpa using (fetchable_iff _).1 hf

/-- Fetch and decode look only at memory and pc (R91). -/
theorem fetchInstr_congr {s t : State} (hm : t.mem = s.mem) (hp : t.pc = s.pc) : fetchInstr t = fetchInstr s := by
  simp [fetchInstr, fetch, memRead2, memRead, hm, hp]

/-- What a step that answers a next state did (R98): a tick, or an instruction fetched inside 0x200 to 0xFFE. -/
theorem step_next {s t : State} (h : step s = .next t) :
    (tickDue s = true ∧ t = tickTurn s) ∨
      (tickDue s = false ∧ (0x200 ≤ s.pc.toNat ∧ s.pc.toNat ≤ 0xFFE) ∧
        ∃ i, fetchInstr s = .ok i ∧ exec i (coreTurn s) = .next t) := by
  unfold step at h
  split at h
  · next hd => cases h; exact .inl ⟨hd, rfl⟩
  · next hd =>
    obtain ⟨hp, i, hi, he⟩ := coreStep_next h
    rw [fetchInstr_congr (coreTurn_mem s) (coreTurn_pc s)] at hi
    exact .inr ⟨by simpa using hd, by simpa using hp, i, hi, he⟩

/-! ## Big-endian words (R33) -/

theorem wordOfBytes_toNat (hi lo : Byte) : (wordOfBytes hi lo).toNat = 256 * hi.toNat + lo.toNat := by
  have h : lo.toNat < 2 ^ 8 := lo.isLt
  rw [wordOfBytes, BitVec.toNat_append, ← Nat.shiftLeft_add_eq_or_of_lt h, Nat.shiftLeft_eq]; omega

theorem highByte_toNat (w : Word) : (highByte w).toNat = w.toNat / 256 := by
  have := w.isLt
  simp only [highByte, BitVec.extractLsb'_toNat, Nat.shiftRight_eq_div_pow]; omega

theorem lowByte_toNat (w : Word) : (lowByte w).toNat = w.toNat % 256 := by
  simp only [lowByte, BitVec.extractLsb'_toNat, Nat.shiftRight_eq_div_pow]; simp

@[simp] theorem wordOfBytes_split (w : Word) : wordOfBytes (highByte w) (lowByte w) = w := by
  apply BitVec.eq_of_toNat_eq
  rw [wordOfBytes_toNat, highByte_toNat, lowByte_toNat]; omega

end Sys2Proof.Machine
end

