-- ==== Sys2Proof/Laws/PerInstr.lean ====
section
/-! SUPPORT. Statements made per instruction. Family `FitsRow`: the word of an operation matches its own row of the
opcode table (spec/30_encoding.md R56, R66). -/

namespace Sys2Proof.Laws

/-- The row of the operation's class code selects the operation's word. -/
def FitsRow.Statement (i : Instr) : Prop := ∃ r, rowOf i = some r ∧ rowSelects r (encode i) = true

theorem fits_of_mask {i : Instr} {r : OpcodeRow} (h : rowOf i = some r) (hm : encode i &&& r.mask = r.bits) :
    FitsRow.Statement i := ⟨r, h, by simpa [rowSelects] using hm⟩

theorem fitsA (bits : Word) (f : BitVec 4) (hb : bits = wordOfNibbles f 0 0 0) (a : Address) :
    encodeA bits a &&& 0xF000#16 = bits := by
  obtain ⟨a⟩ := a
  obtain ⟨x, y, n, rfl⟩ := exists_address_nibbles a
  rw [hb, encodeA_nibbles, mask_F000]

theorem fitsRC (bits : Word) (f : BitVec 4) (hb : bits = wordOfNibbles f 0 0 0) (r : Register) (c : Constant8) :
    encodeRC bits r c &&& 0xF000#16 = bits := by
  obtain ⟨c⟩ := c
  obtain ⟨y, n, rfl⟩ := exists_byte_nibbles c
  rw [hb, encodeRC_nibbles, mask_F000]

theorem fitsRR (bits : Word) (f n : BitVec 4) (hb : bits = wordOfNibbles f 0 0 n) (x y : Register) :
    encodeRR bits x y &&& 0xF00F#16 = bits := by rw [hb, encodeRR_nibbles, mask_F00F]

theorem fitsR (bits : Word) (f y n : BitVec 4) (hb : bits = wordOfNibbles f 0 y n) (x : Register) :
    encodeR bits x &&& 0xF0FF#16 = bits := by rw [hb, encodeR_nibbles, mask_F0FF]

end Sys2Proof.Laws

theorem Sys2Proof.Laws.FitsRow.clearDisplay : Sys2Proof.Laws.FitsRow.Statement .clearDisplay := ⟨_, rfl, by decide⟩

theorem Sys2Proof.Laws.FitsRow.ret : Sys2Proof.Laws.FitsRow.Statement .ret := ⟨_, rfl, by decide⟩

theorem Sys2Proof.Laws.FitsRow.jump (a : Address) :
    Sys2Proof.Laws.FitsRow.Statement (.jump a) :=
  Sys2Proof.Laws.fits_of_mask rfl (Sys2Proof.Laws.fitsA _ 0x1 (by decide) a)

theorem Sys2Proof.Laws.FitsRow.call (a : Address) :
    Sys2Proof.Laws.FitsRow.Statement (.call a) :=
  Sys2Proof.Laws.fits_of_mask rfl (Sys2Proof.Laws.fitsA _ 0x2 (by decide) a)

theorem Sys2Proof.Laws.FitsRow.skipEqualConstant (r : Register) (c : Constant8) :
    Sys2Proof.Laws.FitsRow.Statement (.skipEqualConstant r c) :=
  Sys2Proof.Laws.fits_of_mask rfl (Sys2Proof.Laws.fitsRC _ 0x3 (by decide) r c)

theorem Sys2Proof.Laws.FitsRow.skipNotEqualConstant (r : Register) (c : Constant8) :
    Sys2Proof.Laws.FitsRow.Statement (.skipNotEqualConstant r c) :=
  Sys2Proof.Laws.fits_of_mask rfl (Sys2Proof.Laws.fitsRC _ 0x4 (by decide) r c)

theorem Sys2Proof.Laws.FitsRow.skipEqualRegister (x y : Register) :
    Sys2Proof.Laws.FitsRow.Statement (.skipEqualRegister x y) :=
  Sys2Proof.Laws.fits_of_mask rfl (Sys2Proof.Laws.fitsRR _ 0x5 0x0 (by decide) x y)

theorem Sys2Proof.Laws.FitsRow.loadConstant (r : Register) (c : Constant8) :
    Sys2Proof.Laws.FitsRow.Statement (.loadConstant r c) :=
  Sys2Proof.Laws.fits_of_mask rfl (Sys2Proof.Laws.fitsRC _ 0x6 (by decide) r c)

theorem Sys2Proof.Laws.FitsRow.addConstant (r : Register) (c : Constant8) :
    Sys2Proof.Laws.FitsRow.Statement (.addConstant r c) :=
  Sys2Proof.Laws.fits_of_mask rfl (Sys2Proof.Laws.fitsRC _ 0x7 (by decide) r c)

theorem Sys2Proof.Laws.FitsRow.copy (x y : Register) :
    Sys2Proof.Laws.FitsRow.Statement (.copy x y) :=
  Sys2Proof.Laws.fits_of_mask rfl (Sys2Proof.Laws.fitsRR _ 0x8 0x0 (by decide) x y)

theorem Sys2Proof.Laws.FitsRow.or (x y : Register) :
    Sys2Proof.Laws.FitsRow.Statement (.or x y) :=
  Sys2Proof.Laws.fits_of_mask rfl (Sys2Proof.Laws.fitsRR _ 0x8 0x1 (by decide) x y)

theorem Sys2Proof.Laws.FitsRow.and (x y : Register) :
    Sys2Proof.Laws.FitsRow.Statement (.and x y) :=
  Sys2Proof.Laws.fits_of_mask rfl (Sys2Proof.Laws.fitsRR _ 0x8 0x2 (by decide) x y)

theorem Sys2Proof.Laws.FitsRow.xor (x y : Register) :
    Sys2Proof.Laws.FitsRow.Statement (.xor x y) :=
  Sys2Proof.Laws.fits_of_mask rfl (Sys2Proof.Laws.fitsRR _ 0x8 0x3 (by decide) x y)

theorem Sys2Proof.Laws.FitsRow.add (x y : Register) :
    Sys2Proof.Laws.FitsRow.Statement (.add x y) :=
  Sys2Proof.Laws.fits_of_mask rfl (Sys2Proof.Laws.fitsRR _ 0x8 0x4 (by decide) x y)

theorem Sys2Proof.Laws.FitsRow.sub (x y : Register) :
    Sys2Proof.Laws.FitsRow.Statement (.sub x y) :=
  Sys2Proof.Laws.fits_of_mask rfl (Sys2Proof.Laws.fitsRR _ 0x8 0x5 (by decide) x y)

theorem Sys2Proof.Laws.FitsRow.shiftRight (x y : Register) :
    Sys2Proof.Laws.FitsRow.Statement (.shiftRight x y) :=
  Sys2Proof.Laws.fits_of_mask rfl (Sys2Proof.Laws.fitsRR _ 0x8 0x6 (by decide) x y)

theorem Sys2Proof.Laws.FitsRow.minusSub (x y : Register) :
    Sys2Proof.Laws.FitsRow.Statement (.minusSub x y) :=
  Sys2Proof.Laws.fits_of_mask rfl (Sys2Proof.Laws.fitsRR _ 0x8 0x7 (by decide) x y)

theorem Sys2Proof.Laws.FitsRow.shiftLeft (x y : Register) :
    Sys2Proof.Laws.FitsRow.Statement (.shiftLeft x y) :=
  Sys2Proof.Laws.fits_of_mask rfl (Sys2Proof.Laws.fitsRR _ 0x8 0xE (by decide) x y)

theorem Sys2Proof.Laws.FitsRow.skipNotEqualRegister (x y : Register) :
    Sys2Proof.Laws.FitsRow.Statement (.skipNotEqualRegister x y) :=
  Sys2Proof.Laws.fits_of_mask rfl (Sys2Proof.Laws.fitsRR _ 0x9 0x0 (by decide) x y)

theorem Sys2Proof.Laws.FitsRow.loadAddressConstant (a : Address) :
    Sys2Proof.Laws.FitsRow.Statement (.loadAddressConstant a) :=
  Sys2Proof.Laws.fits_of_mask rfl (Sys2Proof.Laws.fitsA _ 0xA (by decide) a)

theorem Sys2Proof.Laws.FitsRow.jumpWithOffset (a : Address) :
    Sys2Proof.Laws.FitsRow.Statement (.jumpWithOffset a) :=
  Sys2Proof.Laws.fits_of_mask rfl (Sys2Proof.Laws.fitsA _ 0xB (by decide) a)

theorem Sys2Proof.Laws.FitsRow.rand (r : Register) (c : Constant8) :
    Sys2Proof.Laws.FitsRow.Statement (.rand r c) :=
  Sys2Proof.Laws.fits_of_mask rfl (Sys2Proof.Laws.fitsRC _ 0xC (by decide) r c)

theorem Sys2Proof.Laws.FitsRow.draw (x y : Register) (n : Constant4) :
    Sys2Proof.Laws.FitsRow.Statement (.draw x y n) :=
  Sys2Proof.Laws.fits_of_mask rfl (by
    show encodeRRN (wordOfNibbles 0xD 0 0 0) x y n &&& 0xF000#16 = 0xD000#16
    rw [encodeRRN_nibbles, mask_F000]; decide)

theorem Sys2Proof.Laws.FitsRow.skipKeyEqual (r : Register) :
    Sys2Proof.Laws.FitsRow.Statement (.skipKeyEqual r) :=
  Sys2Proof.Laws.fits_of_mask rfl (Sys2Proof.Laws.fitsR _ 0xE 0x9 0xE (by decide) r)

theorem Sys2Proof.Laws.FitsRow.skipKeyNotEqual (r : Register) :
    Sys2Proof.Laws.FitsRow.Statement (.skipKeyNotEqual r) :=
  Sys2Proof.Laws.fits_of_mask rfl (Sys2Proof.Laws.fitsR _ 0xE 0xA 0x1 (by decide) r)

theorem Sys2Proof.Laws.FitsRow.loadDelayTimer (r : Register) :
    Sys2Proof.Laws.FitsRow.Statement (.loadDelayTimer r) :=
  Sys2Proof.Laws.fits_of_mask rfl (Sys2Proof.Laws.fitsR _ 0xF 0x0 0x7 (by decide) r)

theorem Sys2Proof.Laws.FitsRow.waitKey (r : Register) :
    Sys2Proof.Laws.FitsRow.Statement (.waitKey r) :=
  Sys2Proof.Laws.fits_of_mask rfl (Sys2Proof.Laws.fitsR _ 0xF 0x0 0xA (by decide) r)

theorem Sys2Proof.Laws.FitsRow.storeDelayTimer (r : Register) :
    Sys2Proof.Laws.FitsRow.Statement (.storeDelayTimer r) :=
  Sys2Proof.Laws.fits_of_mask rfl (Sys2Proof.Laws.fitsR _ 0xF 0x1 0x5 (by decide) r)

theorem Sys2Proof.Laws.FitsRow.storeBeepTimer (r : Register) :
    Sys2Proof.Laws.FitsRow.Statement (.storeBeepTimer r) :=
  Sys2Proof.Laws.fits_of_mask rfl (Sys2Proof.Laws.fitsR _ 0xF 0x1 0x8 (by decide) r)

theorem Sys2Proof.Laws.FitsRow.addAddress (r : Register) :
    Sys2Proof.Laws.FitsRow.Statement (.addAddress r) :=
  Sys2Proof.Laws.fits_of_mask rfl (Sys2Proof.Laws.fitsR _ 0xF 0x1 0xE (by decide) r)

theorem Sys2Proof.Laws.FitsRow.loadSpriteAddress (r : Register) :
    Sys2Proof.Laws.FitsRow.Statement (.loadSpriteAddress r) :=
  Sys2Proof.Laws.fits_of_mask rfl (Sys2Proof.Laws.fitsR _ 0xF 0x2 0x9 (by decide) r)

theorem Sys2Proof.Laws.FitsRow.storeBCD (r : Register) :
    Sys2Proof.Laws.FitsRow.Statement (.storeBCD r) :=
  Sys2Proof.Laws.fits_of_mask rfl (Sys2Proof.Laws.fitsR _ 0xF 0x3 0x3 (by decide) r)

theorem Sys2Proof.Laws.FitsRow.contextStore (r : Register) :
    Sys2Proof.Laws.FitsRow.Statement (.contextStore r) :=
  Sys2Proof.Laws.fits_of_mask rfl (Sys2Proof.Laws.fitsR _ 0xF 0x5 0x5 (by decide) r)

theorem Sys2Proof.Laws.FitsRow.contextLoad (r : Register) :
    Sys2Proof.Laws.FitsRow.Statement (.contextLoad r) :=
  Sys2Proof.Laws.fits_of_mask rfl (Sys2Proof.Laws.fitsR _ 0xF 0x6 0x5 (by decide) r)
end

