-- ==== Sys2Proof/Machine/Listing.lean ====
section
/-! DEFINITION. The assembly syntax (spec/30_encoding.md R63): the variant name applied to typed operands. -/

namespace Sys2Proof.Machine

/-- The document's name of a variant (R56, R63). -/
def variantName : Instr → String
  | .clearDisplay => "ClearDisplay"
  | .ret => "Return"
  | .jump _ => "Jump"
  | .call _ => "Call"
  | .skipEqualConstant _ _ => "SkipEqualConstant"
  | .skipNotEqualConstant _ _ => "SkipNotEqualConstant"
  | .skipEqualRegister _ _ => "SkipEqualRegister"
  | .loadConstant _ _ => "LoadConstant"
  | .addConstant _ _ => "AddConstant"
  | .copy _ _ => "Copy"
  | .or _ _ => "Or"
  | .and _ _ => "And"
  | .xor _ _ => "Xor"
  | .add _ _ => "Add"
  | .sub _ _ => "Sub"
  | .shiftRight _ _ => "ShiftRight"
  | .minusSub _ _ => "MinusSub"
  | .shiftLeft _ _ => "ShiftLeft"
  | .skipNotEqualRegister _ _ => "SkipNotEqualRegister"
  | .loadAddressConstant _ => "LoadAddressConstant"
  | .jumpWithOffset _ => "JumpWithOffset"
  | .rand _ _ => "Rand"
  | .draw _ _ _ => "Draw"
  | .skipKeyEqual _ => "SkipKeyEqual"
  | .skipKeyNotEqual _ => "SkipKeyNotEqual"
  | .loadDelayTimer _ => "LoadDelayTimer"
  | .waitKey _ => "WaitKey"
  | .storeDelayTimer _ => "StoreDelayTimer"
  | .storeBeepTimer _ => "StoreBeepTimer"
  | .addAddress _ => "AddAddress"
  | .loadSpriteAddress _ => "LoadSpriteAddress"
  | .storeBCD _ => "StoreBCD"
  | .contextStore _ => "ContextStore"
  | .contextLoad _ => "ContextLoad"

/-- `Address(n)`, `Constant8(n)`, `Constant4(n)`, `Register(n)`, the number in decimal (log 15). -/
def renderOperand : RawOperand → String
  | .address n => "Address(" ++ toString n ++ ")"
  | .constant8 n => "Constant8(" ++ toString n ++ ")"
  | .constant4 n => "Constant4(" ++ toString n ++ ")"
  | .register n => "Register(" ++ toString n ++ ")"

/-- `Variant(operand, ...)`, bare for the two variants without operands (R63). -/
def render (i : Instr) : String :=
  match i.operands with
  | [] => variantName i
  | ops => variantName i ++ "(" ++ ", ".intercalate (ops.map renderOperand) ++ ")"

end Sys2Proof.Machine
end

