-- ==== Sys2Proof/Tests/Slice0.lean ====
section
/-! SUPPORT. Tests. Expected results are the vectors of spec/95_test_vectors.md (their ids stand beside them) or are
written out from the encodings of spec/30_encoding.md; then one witness per hypothesis of the obligations. -/

namespace Sys2Proof.Tests

open Sys2Proof.Machine

/-! ## Well-formedness: each check refuses the first number above its range (R53) -/

theorem test_wf_address : Address.ofNat? 0xFFF = some ⟨0xFFF⟩ ∧ Address.ofNat? 0x1000 = none ∧
    RawOperand.wf (.address 0x1000) = false := by decide
theorem test_wf_constant8 : Constant8.ofNat? 0xFF = some ⟨0xFF⟩ ∧ Constant8.ofNat? 0x100 = none ∧
    RawOperand.wf (.constant8 0x100) = false := by decide
theorem test_wf_constant4 : Constant4.ofNat? 0xF = some ⟨0xF⟩ ∧ Constant4.ofNat? 0x10 = none ∧
    RawOperand.wf (.constant4 0x10) = false := by decide
theorem test_wf_register : Register.ofNat? 0xF = some ⟨0xF⟩ ∧ Register.ofNat? 0x10 = none ∧
    RawOperand.wf (.register 0x10) = false := by decide
theorem test_wf_instr : Instr.wf (.draw ⟨0xF⟩ ⟨0xF⟩ ⟨0xF⟩) = true ∧
    ([RawOperand.register 3, .register 16].all RawOperand.wf) = false := by decide

/-! ## Decoding: words written out nibble by nibble from R56 (spec/95 section 2.2) -/

theorem test_decode_display : decode 0b0000_0000_1110_0000 = some .clearDisplay ∧
    decode 0b1101_0001_0010_0011 = some (.draw ⟨1⟩ ⟨2⟩ ⟨3⟩) := by decide
theorem test_decode_control : decode 0b0000_0000_1110_1110 = some .ret ∧
    decode 0b0001_0011_1010_1011 = some (.jump ⟨0x3AB⟩) ∧ decode 0b0010_1111_1010_0010 = some (.call ⟨0xFA2⟩) ∧
    decode 0b1011_1111_1010_1011 = some (.jumpWithOffset ⟨0xFAB⟩) := by decide
theorem test_decode_skip : decode 0b0011_1010_0001_1110 = some (.skipEqualConstant ⟨0xA⟩ ⟨0x1E⟩) ∧
    decode 0b0100_1010_0001_1110 = some (.skipNotEqualConstant ⟨0xA⟩ ⟨0x1E⟩) ∧
    decode 0b0101_0001_0010_0000 = some (.skipEqualRegister ⟨1⟩ ⟨2⟩) ∧
    decode 0b1001_0001_0010_0000 = some (.skipNotEqualRegister ⟨1⟩ ⟨2⟩) ∧
    decode 0b1110_1001_1001_1110 = some (.skipKeyEqual ⟨9⟩) ∧
    decode 0b1110_1111_1010_0001 = some (.skipKeyNotEqual ⟨0xF⟩) := by decide
theorem test_decode_constant : decode 0b0110_1010_0101_0101 = some (.loadConstant ⟨0xA⟩ ⟨0x55⟩) ∧
    decode 0b0111_0001_0000_0001 = some (.addConstant ⟨1⟩ ⟨1⟩) ∧
    decode 0b1010_1111_1010_1011 = some (.loadAddressConstant ⟨0xFAB⟩) ∧
    decode 0b1100_0010_0011_1111 = some (.rand ⟨2⟩ ⟨0x3F⟩) := by decide
theorem test_decode_alu : decode 0b1000_0001_0010_0000 = some (.copy ⟨1⟩ ⟨2⟩) ∧
    decode 0b1000_0001_0010_0001 = some (.or ⟨1⟩ ⟨2⟩) ∧ decode 0b1000_0001_0010_0010 = some (.and ⟨1⟩ ⟨2⟩) ∧
    decode 0b1000_0001_0010_0011 = some (.xor ⟨1⟩ ⟨2⟩) ∧ decode 0b1000_0001_0010_0100 = some (.add ⟨1⟩ ⟨2⟩) ∧
    decode 0b1000_1010_1011_0101 = some (.sub ⟨0xA⟩ ⟨0xB⟩) ∧
    decode 0b1000_0001_0010_0110 = some (.shiftRight ⟨1⟩ ⟨2⟩) ∧
    decode 0b1000_1011_1010_0111 = some (.minusSub ⟨0xB⟩ ⟨0xA⟩) ∧
    decode 0b1000_0001_0010_1110 = some (.shiftLeft ⟨1⟩ ⟨2⟩) := by decide
theorem test_decode_misc : decode 0b1111_1111_0000_0111 = some (.loadDelayTimer ⟨0xF⟩) ∧
    decode 0b1111_1010_0000_1010 = some (.waitKey ⟨0xA⟩) ∧
    decode 0b1111_0011_0001_0101 = some (.storeDelayTimer ⟨3⟩) ∧
    decode 0b1111_0100_0001_1000 = some (.storeBeepTimer ⟨4⟩) ∧
    decode 0b1111_1111_0001_1110 = some (.addAddress ⟨0xF⟩) ∧
    decode 0b1111_1001_0010_1001 = some (.loadSpriteAddress ⟨9⟩) ∧
    decode 0b1111_0111_0011_0011 = some (.storeBCD ⟨7⟩) ∧
    decode 0b1111_1111_0101_0101 = some (.contextStore ⟨0xF⟩) ∧
    decode 0b1111_1111_0110_0101 = some (.contextLoad ⟨0xF⟩) := by decide

/-- Near misses (spec/95 section 2.3). -/
theorem test_decode_invalid : decode 0x0000 = none ∧ decode 0x00E1 = none ∧ decode 0x00EF = none ∧
    decode 0x01E0 = none ∧ decode 0x0200 = none ∧ decode 0x5001 = none ∧ decode 0x800F = none ∧
    decode 0x9ABE = none ∧ decode 0xE9E9 = none ∧ decode 0xEA1A = none ∧ decode 0xF070 = none ∧
    decode 0xF700 = none ∧ decode 0xF330 = none ∧ decode 0xFFFF = none := by decide

/-- The round trip of R66 on the example spec/95 section 2.3 gives. -/
theorem test_encode_draw : encode (.draw ⟨1⟩ ⟨2⟩ ⟨3⟩) = 0xD123 := by decide

/-- The ports (spec/95 section 2.1): 0x8AB6, and 0x5121, wired although invalid. -/
theorem test_ports : decoderBlock 0x8AB6 = ⟨1, 15, 0xA, 0xB, 6, 0xB6, 0xAB6⟩ ∧
    decoderBlock 0x5121 = ⟨0, 63, 1, 2, 1, 0x21, 0x121⟩ := by decide

/-- The bytes 13 AB are `Jump(0x3AB)`, E0 00 is no instruction (M1, M2). -/
theorem test_bytes : decodeBytes [0x13, 0xAB, 0x77] = .ok (.jump ⟨0x3AB⟩, [0x77]) ∧
    decodeBytes [0xE0, 0x00] = .error .invalidOpcode ∧ decodeBytes [0x13] = .error .truncated ∧
    decodeTableWord 16 0x13AB = some (.jump ⟨0x3AB⟩) := ⟨rfl, rfl, rfl, rfl⟩

/-- R63, R64. -/
theorem test_render : render (.draw ⟨1⟩ ⟨2⟩ ⟨3⟩) = "Draw(Register(1), Register(2), Constant4(3))" ∧
    render .clearDisplay = "ClearDisplay" := by decide

/-! ## One step on a small state -/

/-- The switches at their defaults (R6) and `FONT_BASE` = 0x050. -/
def testParams : Params := ⟨.vy, true, .v0, true, 0x50⟩

/-- Every switch at its other setting. -/
def otherParams : Params := ⟨.vx, false, .vx, false, 0x1B0⟩

/-- The reset state with known parameters. -/
def base : State := { State.reset with params := testParams }

/-- `base` with one register set. -/
def withV (r : BitVec 4) (u : Byte) : State := base.setV ⟨r⟩ u

/-- `base` with two registers set. -/
def withVV (r : BitVec 4) (u : Byte) (q : BitVec 4) (w : Byte) : State := (withV r u).setV ⟨q⟩ w

/-- What a projection of the next state gives after one step with the word placed at pc. -/
def after {α : Type} (s : State) (w : Nat) (f : State → α) : Option α :=
  match step (s.withFetchWord 16 w) with
  | .next t => some (f t)
  | _ => none

/-- The fault of one step with the word placed at pc. -/
def faultAfter (s : State) (w : Nat) : Option Fault :=
  match step (s.withFetchWord 16 w) with
  | .fault f => some f
  | _ => none

/-- A projection of the outcome of a meaning. -/
def outcome {α : Type} (r : Result) (f : State → α) : Option α :=
  match r with
  | .next t => some (f t)
  | _ => none

/-- X1, X4. -/
theorem test_jump : after base 0x1ABC State.pc = some 0xABC ∧ after base 0x1203 State.pc = some 0x203 := by decide
/-- X8, X10: the return address is pc + 2, 0x1000 too. -/
theorem test_call : after { base with pc := 0x300, sp := 11 } 0x2400 (fun t => (t.sp, t.stack[11], t.pc)) =
    some (12, 0x302, 0x400) ∧
    after { base with pc := 0xFFE } 0x2300 (fun t => (t.sp, t.stack[0], t.pc)) = some (1, 0x1000, 0x300) := by
  decide
/-- X9. -/
theorem test_call_full : faultAfter { base with pc := 0x300, sp := 12 } 0x2400 = some (.stackOverflow 0x300) := by
  decide
/-- X11, the popped entry is left in the array. -/
theorem test_ret : after { base with pc := 0x20C, sp := 1, stack := base.stack.set 0 0x206 } 0x00EE
    (fun t => (t.sp, t.stack[0], t.pc)) = some (0, 0x206, 0x206) := by decide
/-- X12. -/
theorem test_ret_empty : faultAfter { base with pc := 0x20C } 0x00EE = some (.stackUnderflow 0x20C) := by decide
/-- X15, X17. -/
theorem test_jumpWithOffset : after (withV 0 0xFF) 0xBFFF State.pc = some 0x10FE ∧
    after { withV 3 0x10 with params := otherParams } 0xB300 State.pc = some 0x310 := by decide

/-- S1, S2. -/
theorem test_skipEqualConstant : after { withV 10 0x1E with pc := 0x300 } 0x3A1E State.pc = some 0x304 ∧
    after { withV 10 0x1F with pc := 0x300 } 0x3A1E State.pc = some 0x302 := by decide
/-- S3, S4. -/
theorem test_skipNotEqualConstant : after { withV 10 0x1E with pc := 0x300 } 0x4A1E State.pc = some 0x302 ∧
    after { withV 10 0x1F with pc := 0x300 } 0x4A1E State.pc = some 0x304 := by decide
/-- S6, S8. -/
theorem test_skipEqualRegister : after (withVV 1 0x20 2 0x40) 0x5120 State.pc = some 0x202 ∧
    after (withV 10 0x77) 0x5AA0 State.pc = some 0x204 := by decide
/-- S9, S11. -/
theorem test_skipNotEqualRegister : after (withVV 1 0x20 2 0x40) 0x9120 State.pc = some 0x204 ∧
    after (withV 10 0x77) 0x9AA0 State.pc = some 0x202 := by decide
/-- S14, S15. -/
theorem test_skipKeyEqual : outcome (skipKeyEqualWith true base) State.pc = some 0x204 ∧
    outcome (skipKeyEqualWith false base) State.pc = some 0x202 := by decide
/-- S16, S17. -/
theorem test_skipKeyNotEqual : outcome (skipKeyNotEqualWith true base) State.pc = some 0x202 ∧
    outcome (skipKeyNotEqualWith false base) State.pc = some 0x204 := by decide

/-- L1, E7: an odd pc. -/
theorem test_loadConstant : after { base with pc := 0x201 } 0x6105 (fun t => (t.getV ⟨1⟩, t.pc)) =
    some (0x05, 0x203) := by decide
/-- L5: wraps, VF stays 1. -/
theorem test_addConstant : after (withVV 0 0xFF 15 1) 0x7001 (fun t => (t.getV ⟨0⟩, t.getV ⟨15⟩, t.pc)) =
    some (0x00, 0x01, 0x202) := by decide
/-- L10. -/
theorem test_loadAddressConstant : after { base with iReg := 0x1234 } 0xAFFF (fun t => (t.iReg, t.pc)) =
    some (0xFFF, 0x202) := by decide
/-- L12. -/
theorem test_rand : outcome (randWith 0xA7 ⟨2⟩ ⟨0x3F⟩ base) (fun t => (t.getV ⟨2⟩, t.pc)) = some (0x27, 0x202) := by
  decide

/-- A1. -/
theorem test_copy : after (withV 1 0x20) 0x8210 (fun t => (t.getV ⟨2⟩, t.getV ⟨1⟩)) = some (0x20, 0x20) := by decide
/-- A4, A7. -/
theorem test_or : after ((withVV 1 0x0F 2 0xF0).setV ⟨15⟩ 1) 0x8121 (fun t => (t.getV ⟨1⟩, t.getV ⟨15⟩)) =
    some (0xFF, 0x00) ∧
    after { withVV 1 0xF0 15 0x0F with params := otherParams } 0x8F11 (·.getV ⟨15⟩) = some 0xFF := by decide
/-- A9: the old VF is the operand, then VF is reset. -/
theorem test_and : after (withVV 1 0xFF 15 0x0F) 0x81F2 (fun t => (t.getV ⟨1⟩, t.getV ⟨15⟩)) =
    some (0x0F, 0x00) := by decide
/-- A10. -/
theorem test_xor : after ((withVV 1 0x20 2 0x40).setV ⟨15⟩ 1) 0x8123 (fun t => (t.getV ⟨1⟩, t.getV ⟨15⟩)) =
    some (0x60, 0x00) := by decide
/-- A15. -/
theorem test_add : after ((withVV 0 0x7F 1 0x80).setV ⟨15⟩ 1) 0x8014 (fun t => (t.getV ⟨0⟩, t.getV ⟨15⟩)) =
    some (0xFF, 0x00) := by decide
/-- A17, A18: VF as destination and as source. -/
theorem test_add_vf : after (withVV 1 0x20 15 0xF0) 0x8F14 (·.getV ⟨15⟩) = some 0x01 ∧
    after (withVV 0 0x01 15 0xFF) 0x80F4 (fun t => (t.getV ⟨0⟩, t.getV ⟨15⟩)) = some (0x00, 0x01) := by decide
/-- A19, A21. -/
theorem test_sub : after (withVV 0 0x10 1 0x20) 0x8015 (fun t => (t.getV ⟨0⟩, t.getV ⟨15⟩)) = some (0xF0, 0x00) ∧
    after (withVV 0 0x07 1 0x07) 0x8015 (fun t => (t.getV ⟨0⟩, t.getV ⟨15⟩)) = some (0x00, 0x01) := by decide
/-- A24, A25. -/
theorem test_sub_vf : after (withVV 1 0x03 15 0x05) 0x8F15 (·.getV ⟨15⟩) = some 0x01 ∧
    after (withVV 1 0x05 15 0x03) 0x8F15 (·.getV ⟨15⟩) = some 0x00 := by decide
/-- A26, A27. -/
theorem test_minusSub : after (withVV 0 0x10 1 0x30) 0x8017 (fun t => (t.getV ⟨0⟩, t.getV ⟨15⟩)) =
    some (0x20, 0x01) ∧
    after (withVV 0 0x20 1 0x10) 0x8017 (fun t => (t.getV ⟨0⟩, t.getV ⟨15⟩)) = some (0xF0, 0x00) := by decide
/-- A30, A31. -/
theorem test_shiftRight : after (withVV 0 0xAA 1 0x03) 0x8016 (fun t => (t.getV ⟨0⟩, t.getV ⟨15⟩)) =
    some (0x01, 0x01) ∧
    after { withVV 0 0xAA 1 0x03 with params := otherParams } 0x8016 (fun t => (t.getV ⟨0⟩, t.getV ⟨15⟩)) =
      some (0x55, 0x00) := by decide
/-- A36, A37. -/
theorem test_shiftLeft : after (withVV 0 0x40 1 0x81) 0x801E (fun t => (t.getV ⟨0⟩, t.getV ⟨15⟩)) =
    some (0x02, 0x01) ∧
    after { withVV 0 0x40 1 0x81 with params := otherParams } 0x801E (fun t => (t.getV ⟨0⟩, t.getV ⟨15⟩)) =
      some (0x80, 0x00) := by decide

/-- G2. -/
theorem test_clearDisplay : after (withV 15 1) 0x00E0 (fun t => (t.display, t.getV ⟨15⟩, t.pc)) =
    some ([.clearScreen], 0x01, 0x202) := by decide
/-- Three rows at 0x300 (G3). -/
def rows : State := { withVV 1 0x0A 2 0x05 with iReg := 0x300, mem := [(0x300, 0xF0), (0x301, 0x90), (0x302, 0xF0)] }
/-- G3. -/
theorem test_draw : outcome (drawWith 1 ⟨1⟩ ⟨2⟩ ⟨3⟩ rows) (fun t => (t.getV ⟨15⟩, t.display, t.pc)) =
    some (0x01, [.drawSprite 10 5 [0xF0, 0x90, 0xF0]], 0x202) := by decide
/-- G7, G8, and G9: height 0 reads nothing. -/
theorem test_draw_bounds : faultAfter { base with iReg := 0xFFE } 0xD003 = some (.memoryOutOfBounds 0x1000) ∧
    faultAfter { base with iReg := 0x1010 } 0xD001 = some (.memoryOutOfBounds 0x1010) ∧
    outcome (drawWith 0 ⟨0⟩ ⟨0⟩ ⟨0⟩ { base with iReg := 0x1010 }) State.display =
      some [.drawSprite 0 0 []] := by decide

/-- F1. -/
theorem test_loadDelayTimer : outcome (execLoadDelayTimer ⟨3⟩ { base with dt := 0x2A })
    (fun t => (t.getV ⟨3⟩, t.dt, t.pc)) = some (0x2A, 0x2A, 0x202) := by decide
/-- F5, and F4: the hold leaves pc. -/
theorem test_waitKey : outcome (waitKeyWith (some 15) ⟨15⟩ (withV 15 1)) (fun t => (t.getV ⟨15⟩, t.pc)) =
    some (0x0F, 0x202) ∧
    outcome (waitKeyWith none ⟨5⟩ base) (fun t => (t.v, t.pc)) = some (base.v, 0x200) := by decide
/-- F7. -/
theorem test_storeDelayTimer : after (withV 3 0x3C) 0xF315 (fun t => (t.dt, t.st)) = some (0x3C, 0) := by decide
/-- F10. -/
theorem test_storeBeepTimer : after (withV 3 0xFF) 0xF318 (fun t => (t.st, t.dt)) = some (0xFF, 0) := by decide
/-- F12, F13. -/
theorem test_addAddress : after { withV 2 0x20 with iReg := 0xFF0 } 0xF21E (fun t => (t.iReg, t.getV ⟨15⟩)) =
    some (0x1010, 0) ∧ after { withV 0 0x01 with iReg := 0xFFFF } 0xF01E State.iReg = some 0 := by decide
/-- F16, F18. -/
theorem test_loadSpriteAddress : after (withV 4 0xFA) 0xF429 State.iReg = some 0x082 ∧
    after { withV 4 0x0F with params := otherParams } 0xF429 State.iReg = some 0x1FB := by decide
/-- F20, F25. -/
theorem test_storeBCD : after { withV 0 0xFE with iReg := 0x300 } 0xF033 (fun t => t.mem.readBlock 0x300 3) =
    some [2, 5, 4] ∧
    after { withV 1 0x7B with iReg := 0xFFD } 0xF133 (fun t => t.mem.readBlock 0xFFD 3) = some [1, 2, 3] := by decide
/-- F26, F27. -/
theorem test_storeBCD_bounds : faultAfter { withV 1 0x7B with iReg := 0xFFE } 0xF133 =
    some (.memoryOutOfBounds 0x1000) ∧
    faultAfter { withV 1 0x7B with iReg := 0x1000 } 0xF133 = some (.memoryOutOfBounds 0x1000) := by decide
/-- F28, F29. -/
theorem test_contextStore :
    after { withVV 0 0x6B 1 0x2A with iReg := 0x20A } 0xF155 (fun t => (t.mem.readBlock 0x209 4, t.iReg)) =
      some ([0, 0x6B, 0x2A, 0], 0x20C) ∧
    after { withVV 0 0x6B 1 0x2A with iReg := 0x20A, params := otherParams } 0xF155 State.iReg = some 0x20A := by
  decide
/-- F32, F37. -/
theorem test_context_bounds : faultAfter { base with iReg := 0xFF1 } 0xFF55 = some (.memoryOutOfBounds 0x1000) ∧
    faultAfter { base with iReg := 0xFF1 } 0xFF65 = some (.memoryOutOfBounds 0x1000) := by decide
/-- F33, F34. -/
theorem test_contextLoad :
    after { base with iReg := 0x300, mem := [(0x300, 2), (0x301, 5), (0x302, 4), (0x303, 9)] } 0xF265
      (fun t => (t.getV ⟨0⟩, t.getV ⟨1⟩, t.getV ⟨2⟩, t.getV ⟨3⟩, t.iReg)) = some (2, 5, 4, 0, 0x303) ∧
    after { base with iReg := 0x300, mem := [(0x300, 7)], params := otherParams } 0xF065
      (fun t => (t.getV ⟨0⟩, t.iReg)) = some (7, 0x300) := by decide

/-- E3, E4, E5. -/
theorem test_faults : faultAfter { base with pc := 0x2A0 } 0x8AB8 = some (.invalidOpcode 0x2A0 0x8AB8) ∧
    (match step { base with pc := 0x1FE } with | .fault f => some f | _ => none) = some (.pcOutOfRange 0x1FE) ∧
    (match step { base with pc := 0xFFF } with | .fault f => some f | _ => none) = some (.pcOutOfRange 0xFFF) := by
  decide

/-- T3, T4. -/
theorem test_tick : ((tick base).dt, (tick base).st) = (0, 0) ∧
    ((tick { base with dt := 0xFF, st := 0x01 }).dt, (tick { base with dt := 0xFF, st := 0x01 }).st) =
      (0xFE, 0x00) := by decide

/-- A tick that is due is the whole step and leaves pc, also at a `WaitKey` (T7); one that is not due is not taken. -/
theorem test_turns :
    (match step { base with dt := 2, untilTick := some 0, mem := [(0x200, 0xF5), (0x201, 0x0A)] } with
      | .next t => some (t.dt, t.pc) | _ => none) = some (1, 0x200) ∧
    (match step { base with dt := 2, untilTick := some 1, mem := [(0x200, 0x61), (0x201, 0x05)] } with
      | .next t => some (t.dt, t.pc, t.untilTick) | _ => none) = some (2, 0x202, some 0) := by decide

/-- Weak fairness only (R97): with both timers at 0 the tick may have come unseen, so the `StoreDelayTimer` that starts
`DT` leaves the next tick open, whatever was left of an earlier count. -/
theorem test_next_tick_open :
    (match step { (withV 0 1) with untilTick := some 0, mem := [(0x200, 0xF0), (0x201, 0x15)] } with
      | .next t => some (t.dt, t.pc, t.untilTick) | _ => none) = some (1, 0x202, none) := by decide

/-- LD2, LD3. -/
theorem test_load : outcome (load [0xAB]) (fun t => (t.mem, t.pc)) = some ([(0x200, 0xAB)], 0x200) ∧
    outcome (load [0x60, 0x0A, 0x12, 0x02]) (fun t => t.mem.readBlock 0x1FF 6) =
      some [0, 0x60, 0x0A, 0x12, 0x02, 0] := by decide

/-! ## Witnesses: states and operands that meet each obligation's hypotheses, at the edges of its clauses -/

/-- A next state is answered. -/
def completes (r : Result) : Bool :=
  match r with
  | .next _ => true
  | _ => false

theorem exists_next {r : Result} (h : completes r = true) : ∃ t, r = .next t := by
  cases r with
  | next t => exact ⟨t, rfl⟩
  | fault f => cases h
  | refused f => cases h

/-- DecodeAndEncodeAreInverse, OpcodeRowsAreDisjointAndSelectTheVariant. -/
theorem witness_decode : decode 0xD123 = some (.draw ⟨1⟩ ⟨2⟩ ⟨3⟩) ∧
    rowOf (.draw ⟨1⟩ ⟨2⟩ ⟨3⟩) = some ⟨22, 0xF000, 0xD000⟩ ∧ (⟨22, 0xF000, 0xD000⟩ : OpcodeRow) ∈ opcodeTable ∧
    rowSelects ⟨22, 0xF000, 0xD000⟩ 0xD123 = true ∧ decode 0xFFFF = none := by decide

/-- LoadBuildsTheResetState: the longest image, and one byte more. -/
theorem witness_load_length : (List.replicate 3584 (0xFF : Byte)).length ≤ 3584 ∧
    3584 < (List.replicate 3585 (0xFF : Byte)).length := by
  rw [List.length_replicate, List.length_replicate]; omega

/-- LoadedStatesSatisfyTheInvariant, ZeroedMemoryIsNoInstruction, ConfigurationGivesTheSizes. -/
theorem witness_load : (∃ t, load [0xAB] = .next t) ∧ ∃ t, load [] = .next t :=
  ⟨exists_next (by decide), exists_next (by decide)⟩

/-- ZeroedMemoryIsNoInstruction: at both ends of the range. -/
theorem witness_zeroed : ∃ s : State, s.pc.toNat = 0xFFE ∧ s.mem.read 0xFFE = 0 ∧ s.mem.read 0xFFF = 0 :=
  ⟨{ base with pc := 0xFFE }, by decide, by decide, by decide⟩

/-- The reset state with known parameters meets the invariant (PlatformFontIsFoundByLoadSpriteAddress,
EveryStepKeepsTheInvariant). -/
theorem witness_inv : base.Inv := by unfold State.Inv; decide

/-- CanonicalMemoriesAreEqualWhenTheyReadEqual. -/
theorem witness_memories : ∃ m m' : Memory, m.wf = true ∧ m'.wf = true ∧ ∀ a, m.read a = m'.read a :=
  ⟨[(0x300, 1), (0xFFF, 2)], Memory.write (Memory.write [] 0xFFF 2) 0x300 1, by decide, by decide, fun _ => rfl⟩

/-- StoresAreSeenByTheNextFetch, ContextStoreSavesRegisters: the last byte at 0xFFF, the last word fetched. -/
theorem witness_contextStore : ∃ s t : State, exec (.contextStore ⟨1⟩) s = .next t ∧
    s.iReg.toNat + (⟨1⟩ : Register).index.toNat = 0xFFF ∧ s.iReg.toNat ≤ (0xFFE : Word).toNat ∧
    (0xFFE : Word).toNat + 1 ≤ s.iReg.toNat + (⟨1⟩ : Register).index.toNat :=
  ⟨{ base with iReg := 0xFFE }, _, rfl, by decide, by decide, by decide⟩

/-- StoresAreSeenByTheNextFetch, StoreBCDWritesThreeDigits: the last place, fetched at `I` and at `I + 1`. -/
theorem witness_storeBCD : ∃ s t : State, exec (.storeBCD ⟨1⟩) s = .next t ∧ s.iReg.toNat + 2 = 0xFFF ∧
    (0xFFD : Word).toNat = s.iReg.toNat ∧ (0xFFE : Word).toNat = s.iReg.toNat + 1 :=
  ⟨{ withV 1 0x7B with iReg := 0xFFD }, _, rfl, by decide, by decide, by decide⟩

/-- FetchOnlyInsideTheProgramRange: the four edges. -/
theorem witness_pc_edges : fetchable 0x200 = true ∧ fetchable 0xFFE = true ∧ fetchable 0x1FF = false ∧
    fetchable 0xFFF = false := by decide

/-- InvalidWordFaults. -/
theorem witness_invalid : ∃ (s : State) (w : Word), 0x200 ≤ s.pc.toNat ∧ s.pc.toNat ≤ 0xFFE ∧
    w.toNat = (s.mem.read s.pc.toNat).toNat * 256 + (s.mem.read (s.pc.toNat + 1)).toNat ∧ decode w = none :=
  ⟨{ base with mem := [(0x200, 0x51), (0x201, 0x21)] }, 0x5121, by decide, by decide, by decide, by decide⟩

/-- StepRunsTheDecodedInstruction, with both timers at 0. -/
theorem witness_step : ∃ (s : State) (w : Word) (i : Instr), 0x200 ≤ s.pc.toNat ∧ s.pc.toNat ≤ 0xFFE ∧
    w.toNat = (s.mem.read s.pc.toNat).toNat * 256 + (s.mem.read (s.pc.toNat + 1)).toNat ∧ decode w = some i ∧
    s.dt = 0 ∧ s.st = 0 ∧ s.untilTick = none :=
  ⟨{ base with mem := [(0x200, 0x6A), (0x201, 0x55)] }, 0x6A55, .loadConstant ⟨0xA⟩ ⟨0x55⟩, by decide, by decide,
    by decide, by decide, by decide, by decide, by decide⟩

/-- PlacedWordIsRunNext: a word that decodes, a pc in range, a state with a tick due and one with none. -/
theorem witness_placed : decode 0x6A55 = some (.loadConstant ⟨0xA⟩ ⟨0x55⟩) ∧ 0x200 ≤ base.pc.toNat ∧
    base.pc.toNat ≤ 0xFFE ∧ tickDue { base with dt := 1, untilTick := some 0 } = true ∧ tickDue base = false := by decide

/-- StepIsATickOrACoreStep, TickLowersEachTimer: a tick that is due, one that is not yet, both timers at 0, and a core
step that faults. -/
theorem witness_turns : tickDue { base with st := 1, untilTick := some 0 } = true ∧
    tickDue { base with st := 1, untilTick := some 1 } = false ∧ (base.dt = 0 ∧ base.st = 0) ∧
    coreStep base = .fault (.invalidOpcode 0x200 0x0000) := ⟨by decide, by decide, by decide, rfl⟩

/-- A jump to itself at 0x20A, with `DT` running. -/
def spinStart : State := { base with pc := 0x20A, mem := [(0x20A, 0x12), (0x20B, 0x0A)], dt := 1 }

/-- The states of its run. -/
def spin : Nat → State
  | 0 => spinStart
  | n + 1 =>
    match step (spin n) with
    | .next t => t
    | _ => spin n

theorem spin_step (s : State) (hm : s.mem = spinStart.mem) (hp : s.pc = 0x20A) :
    ∃ t, step s = .next t ∧ t.mem = spinStart.mem ∧ t.pc = 0x20A := by
  by_cases hd : tickDue s = true
  · exact ⟨tickTurn s, if_pos hd, hm, hp⟩
  · have hf : fetchInstr (coreTurn s) = .ok (.jump ⟨0x20A⟩) :=
      fetchInstr_congr (s := spinStart) ((coreTurn_mem s).trans hm) ((coreTurn_pc s).trans hp)
    exact ⟨(coreTurn s).goto 0x20A, by rw [step, if_neg hd, coreStep, hf]; rfl, by simpa using hm, rfl⟩

/-- TicksAreWeaklyFair: an infinite run, from a state in which a timer runs. -/
theorem witness_run : isRun spin ∧ timerRuns (spin 0) = true := by
  have h : ∀ n, (spin n).mem = spinStart.mem ∧ (spin n).pc = 0x20A := by
    intro n
    induction n with
    | zero => exact ⟨rfl, rfl⟩
    | succ n ih =>
      obtain ⟨t, ht, hm, hp⟩ := spin_step (spin n) ih.1 ih.2
      have he : spin (n + 1) = t := by rw [spin, ht]
      rw [he]; exact ⟨hm, hp⟩
  refine ⟨fun n => ?_, by decide⟩
  obtain ⟨t, ht, _⟩ := spin_step (spin n) (h n).1 (h n).2
  rw [spin, ht]

theorem spin_next (u : Option Nat) (d : Byte) : ∃ t, step { spinStart with untilTick := u, dt := d } = .next t :=
  (spin_step { spinStart with untilTick := u, dt := d } rfl rfl).imp fun _ h => h.1

/-- TheNextTickIsOpen: a tick; a step with both timers at 0; a core step that lowers the count; and, with the number
not drawn, a step while a timer runs. -/
theorem witness_next_tick :
    (tickDue { spinStart with untilTick := some 0, dt := 1 } = true ∧
      timerRuns { spinStart with untilTick := some 0, dt := 0 } = false ∧
      tickDue { spinStart with untilTick := some 1, dt := 1 } = false ∧
      timerRuns { spinStart with untilTick := none, dt := 1 } = true) ∧
    ∀ u d, ∃ t, step { spinStart with untilTick := u, dt := d } = .next t := ⟨by decide, spin_next⟩

/-- FinalStatesStayFinal (X2). -/
theorem witness_final : isFinal { base with pc := 0x20A, mem := [(0x20A, 0x12), (0x20B, 0x0A)] } = true := by decide

/-- EveryStepKeepsTheInvariant, ParametersAreFixedAndEventsOnlyAdded, DisplayHistoryDecidesNothing: a state that meets
the invariant and steps. -/
theorem witness_step_next : ∃ s t : State, s.Inv ∧ step s = .next t :=
  ⟨base.withFetchWord 16 0x6A55, (exists_next (by decide)).choose, by unfold State.Inv; decide,
    (exists_next (by decide)).choose_spec⟩

/-- InstructionsWriteOnlyWhatTheAccessTableLists: a store, a register it may not write, bytes outside, an entry that
is not the one pushed. -/
theorem witness_frame : completes (exec (.storeBCD ⟨1⟩) { base with iReg := 0x300 }) = true ∧
    mayWriteReg testParams ⟨1⟩ (.storeBCD ⟨1⟩) = false ∧ 0x2FF < (0x300 : Word).toNat ∧
    (0x300 : Word).toNat + storedCount (.storeBCD ⟨1⟩) ≤ 0x303 ∧ 1 ≠ base.sp.val := by decide

/-- FaultsOfInstructions: each of the ways an instruction faults. -/
theorem witness_faults : exec (.call ⟨0x300⟩) { base with sp := 12 } = .fault (.stackOverflow 0x200) ∧
    exec .ret base = .fault (.stackUnderflow 0x200) ∧
    exec (.draw ⟨0⟩ ⟨0⟩ ⟨3⟩) { base with iReg := 0xFFE } = .fault (.memoryOutOfBounds 0x1000) ∧
    exec (.storeBCD ⟨0⟩) { base with iReg := 0xFFE } = .fault (.memoryOutOfBounds 0x1000) ∧
    exec (.contextStore ⟨15⟩) { base with iReg := 0xFF1 } = .fault (.memoryOutOfBounds 0x1000) ∧
    exec (.contextLoad ⟨15⟩) { base with iReg := 0xFF1 } = .fault (.memoryOutOfBounds 0x1000) :=
  ⟨rfl, rfl, rfl, rfl, rfl, rfl⟩

/-- NoInstructionReadsTheSoundTimer: an instruction that is `StoreBeepTimer`, one that is not, one that faults. -/
theorem witness_sound : completes (exec (.storeBeepTimer ⟨1⟩) base) = true ∧
    completes (exec (.copy ⟨1⟩ ⟨2⟩) base) = true ∧ exec .ret base = .fault (.stackUnderflow 0x200) :=
  ⟨by decide, by decide, rfl⟩

/-- JumpSetsThePc: a jump to itself; the targets next to the range. -/
theorem witness_jump : base.pc.toNat = (⟨0x200⟩ : Address).value.toNat ∧ (⟨0x1FF⟩ : Address).value.toNat < 0x200 ∧
    (⟨0xFFF⟩ : Address).value.toNat = 0xFFF := by decide

/-- CallPushesTheReturnAddress, ReturnUndoesCall: one entry left, another entry, and a full stack. -/
theorem witness_call : ∃ s u : State, s.sp.val < 12 ∧ s.sp.val = 11 ∧ 10 ≠ s.sp.val ∧ u.sp.val = 12 :=
  ⟨{ base with sp := 11 }, { base with sp := 12 }, by decide, by decide, by decide, by decide⟩

/-- ReturnPopsTheStack: a full stack, an empty one, and a return address no fetch is allowed at. -/
theorem witness_ret : ∃ s u t : State, s.sp.val - 1 < 12 ∧ s.sp.val ≠ 0 ∧ u.sp.val = 0 ∧
    exec .ret s = .next t ∧ 0xFFE < t.pc.toNat :=
  ⟨{ base with sp := 12, stack := base.stack.set 11 0x1000 }, base, _, by decide, by decide, by decide, rfl,
    by decide⟩

/-- JumpWithOffsetAddsTheRegister: both settings of the switch, and a target outside the range. -/
theorem witness_jumpWithOffset : testParams.jumpOffsetReg = .v0 ∧ otherParams.jumpOffsetReg = .vx ∧
    ∃ t, exec (.jumpWithOffset ⟨0xFFF⟩) (withV 0 0xFF) = .next t ∧ 0xFFE < t.pc.toNat :=
  ⟨by decide, by decide, _, rfl, by decide⟩

/-- SkipsOnAConstant, SkipsOnRegisters, SkipsOnAKey: equal, not equal, and the same register twice. -/
theorem witness_skips : (withVV 1 5 2 5).getV ⟨1⟩ = (⟨5⟩ : Constant8).value ∧
    (withVV 1 5 2 6).getV ⟨1⟩ ≠ (⟨6⟩ : Constant8).value ∧
    (withVV 1 5 2 5).getV ⟨1⟩ = (withVV 1 5 2 5).getV ⟨2⟩ ∧
    (withVV 1 5 2 6).getV ⟨1⟩ ≠ (withVV 1 5 2 6).getV ⟨2⟩ ∧ (⟨3⟩ : Register) = ⟨3⟩ ∧ (∃ d, d = true) ∧
    ∃ d, d = false := by decide

/-- RandMasksAFreeByte: a byte of the random source whose result has a bit, and the constant 0; LoadAndAddConstant: a
register that is not the destination. -/
theorem witness_rand : (∃ t, randWith 0xA7 ⟨2⟩ ⟨0x3F⟩ base = .next t ∧ (t.getV ⟨2⟩).getLsbD 0 = true) ∧
    (⟨0⟩ : Constant8).value = 0 ∧ (⟨3⟩ : Register) ≠ ⟨2⟩ :=
  ⟨⟨_, rfl, by decide⟩, by decide, by decide⟩

/-- LogicOperations: each operation, both settings of the switch, VF and not VF as the destination. -/
theorem witness_logic : (Instr.or ⟨1⟩ ⟨2⟩ = .or ⟨1⟩ ⟨2⟩ ∧ Instr.and ⟨1⟩ ⟨2⟩ = .and ⟨1⟩ ⟨2⟩ ∧
    Instr.xor ⟨1⟩ ⟨2⟩ = .xor ⟨1⟩ ⟨2⟩) ∧ testParams.logicResetsVF = true ∧ otherParams.logicResetsVF = false ∧
    (⟨1⟩ : Register) ≠ regVF ∧ (⟨15⟩ : Register) = regVF := by decide

/-- AddSetsTheCarry, SubtractionsSetNotBorrow, ShiftsMoveOneBit: destinations VF and not VF, both shift sources. -/
theorem witness_alu : (⟨1⟩ : Register) ≠ regVF ∧ (⟨2⟩ : Register) ≠ ⟨1⟩ ∧ (⟨2⟩ : Register) ≠ regVF ∧
    testParams.shiftSrc = .vy ∧ otherParams.shiftSrc = .vx := by decide

/-- DrawEmitsTheSpriteAndAFreeBit: height 0 anywhere, the last row at 0xFFF, the last row at 0x1000. -/
theorem witness_draw : (⟨0⟩ : Constant4).value.toNat = 0 ∧
    ({ base with iReg := 0xFFD } : State).iReg.toNat + (⟨3⟩ : Constant4).value.toNat - 1 ≤ 0xFFF ∧
    (⟨3⟩ : Constant4).value.toNat ≠ 0 ∧
    0xFFF < ({ base with iReg := 0xFFE } : State).iReg.toNat + (⟨3⟩ : Constant4).value.toNat - 1 := by decide

/-- AddAddressAddsToI: a sum past 0xFFF, and a height that is not 0. -/
theorem witness_addAddress : (∃ t, exec (.addAddress ⟨2⟩) { withV 2 0x20 with iReg := 0xFF0 } = .next t ∧
    0xFFF < t.iReg.toNat) ∧ (⟨1⟩ : Constant4).value.toNat ≠ 0 :=
  ⟨⟨_, rfl, by decide⟩, by decide⟩

/-- PcAfterAnInstruction, EachAskingTakesOneAnswer: an instruction of each kind completes. -/
theorem witness_kinds : completes (exec (.call ⟨0x300⟩) base) = true ∧ completes (exec (.jump ⟨0x300⟩) base) = true ∧
    completes (exec (.jumpWithOffset ⟨0x300⟩) base) = true ∧ completes (exec .ret { base with sp := 1 }) = true ∧
    completes (exec (.skipEqualConstant ⟨1⟩ ⟨0⟩) base) = true ∧ completes (skipKeyEqualWith true base) = true ∧
    completes (waitKeyWith none ⟨1⟩ base) = true ∧ completes (exec (.rand ⟨1⟩ ⟨0⟩) base) = true ∧
    completes (exec .clearDisplay base) = true := by decide

/-- StoreBCDWritesThreeDigits, ContextStoreSavesRegisters, ContextLoadRestoresRegisters: the first place outside. -/
theorem witness_bounds : 0xFFF < ({ base with iReg := 0xFFE } : State).iReg.toNat + 2 ∧
    0xFFF < ({ base with iReg := 0xFF1 } : State).iReg.toNat + (⟨15⟩ : Register).index.toNat ∧
    ({ base with iReg := 0xFF0 } : State).iReg.toNat + (⟨15⟩ : Register).index.toNat ≤ 0xFFF ∧
    (⟨15⟩ : Register).index.toNat ≤ (⟨15⟩ : Register).index.toNat := by decide

/-- ContextSurvivesSaveAndRestore: a machine with the saved memory and index, and other registers. -/
theorem witness_survives : ∃ s t u : State, exec (.contextStore ⟨3⟩) s = .next t ∧ u.mem = t.mem ∧
    u.iReg = s.iReg ∧ u.getV ⟨0⟩ ≠ s.getV ⟨0⟩ :=
  ⟨{ withV 0 7 with iReg := 0x300 }, _, { base with mem := [(0x300, 7)], iReg := 0x300 }, rfl, by decide, by decide,
    by decide⟩

end Sys2Proof.Tests
end

/-! # The parameters, the display port and the collaborators' answers across a step (spec/00 R5, R6; spec/60 R219)

What a step does to the parts of the state that are the model's own, and the sizes of the configuration record. -/

namespace Sys2Proof.Machine

/-! ## What the shared operations answered, given a next state -/

/-- A checked memory instruction that answers a next state had all its addresses in bounds (R37). -/
theorem withBounds_next {base n : Nat} {r : Result} {t : State} (h : withBounds base n r = .next t) :
    (n = 0 ∨ base + n ≤ 4096) ∧ r = .next t := by
  rcases withBounds_cases base n r with ⟨hb, he⟩ | ⟨_, _, he⟩ <;> rw [he] at h
  · exact ⟨hb, h⟩
  · cases h

/-- A push that answers a next state found room (R105). -/
theorem pushThen_next {s t : State} {w : Word} {k : State → Result} (h : pushThen s w k = .next t) :
    ∃ hr : s.sp.val < 12, k (s.withStack (s.stack.set s.sp.val w hr) ⟨s.sp.val + 1, by omega⟩) = .next t := by
  by_cases hr : s.sp.val < 12
  · exact ⟨hr, by rw [← h, pushThen_room hr]⟩
  · rw [pushThen_full (by omega)] at h; cases h

/-- A pop that answers a next state found a live entry (R101). -/
theorem popThen_next {s t : State} {k : State → Word → Result} (h : popThen s k = .next t) :
    s.sp.val ≠ 0 ∧ k (s.withStack s.stack ⟨s.sp.val - 1, by omega⟩) s.top = .next t := by
  by_cases hl : s.sp.val = 0
  · rw [popThen_empty hl] at h; cases h
  · exact ⟨hl, by rw [← h, popThen_live hl]⟩

/-- `load` answers a next state exactly for an image that fits, and then the state it builds (R230, R231). -/
theorem load_next_iff {image : List Byte} {s : State} :
    load image = .next s ↔ image.length ≤ 3584 ∧ s = loadedState image := by
  have hmax : hardware.maxImage = 3584 := rfl
  rw [load, hmax]
  split
  · simp [raise]; omega
  · simp [eq_comm]; omega

/-! ## Events, answers and parameters across an instruction (R19, R219 to R221) -/

/-- The events an instruction emits on the display port (R161, R163). -/
def emittedEvents : Instr → State → List DisplayEvent
  | .clearDisplay, _ => [.clearScreen]
  | .draw x y n, s => [spriteEvent x y n s]
  | _, _ => []

/-- How many free answers an instruction takes (log 2). -/
def answersTaken : Instr → Nat
  | .rand _ _ | .draw _ _ _ | .skipKeyEqual _ | .skipKeyNotEqual _ | .waitKey _ => 1
  | _ => 0

/-- From `s` to `t` the parameters are kept, the events `es` are emitted and `n` free answers are taken. -/
structure PortsAdvance (es : List DisplayEvent) (n : Nat) (s t : State) : Prop where
  params : t.params = s.params
  display : t.display = s.display ++ es
  asked : t.asked = s.asked + n

/-- Whatever key the keyboard presents, a `WaitKey` takes one answer and emits nothing (R173). -/
theorem waitKeyWith_ports {key : Option (BitVec 4)} {r : Register} {s t : State}
    (h : waitKeyWith key r s = .next t) : PortsAdvance [] 1 s t := by
  cases key with
  | none | some =>
    obtain rfl := Host.Outcome.next.inj h
    constructor <;> simp

/-- Every instruction keeps the parameters, emits its events and takes its answers. -/
theorem exec_ports {i : Instr} {s t : State} (h : exec i s = .next t) :
    PortsAdvance (emittedEvents i s) (answersTaken i) s t := by
  cases i with
  | ret =>
    rw [exec, execRet] at h
    obtain ⟨_, hk⟩ := popThen_next h
    obtain rfl := Host.Outcome.next.inj hk
    constructor <;> simp [emittedEvents, answersTaken]
  | call a =>
    rw [exec, execCall] at h
    obtain ⟨_, hk⟩ := pushThen_next h
    obtain rfl := Host.Outcome.next.inj hk
    constructor <;> simp [emittedEvents, answersTaken]
  | waitKey r => exact waitKeyWith_ports h
  | draw | storeBCD | contextStore | contextLoad =>
    obtain ⟨_, hk⟩ := withBounds_next h
    obtain rfl := Host.Outcome.next.inj hk
    constructor <;> simp [emittedEvents, answersTaken]
  | _ =>
    obtain rfl := Host.Outcome.next.inj h
    constructor <;> simp [emittedEvents, answersTaken]

/-- The core's turn never lowers the count of free answers. -/
theorem coreTurn_asked_le (s : State) : s.asked ≤ (coreTurn s).asked := by
  rw [coreTurn_asked]; split <;> omega

/-- Every step keeps the parameters, emits the events of the instruction it ran, if any, and never lowers the count of
free answers. -/
theorem step_ports {s t : State} (h : step s = .next t) : ∃ es n, PortsAdvance es n s t := by
  rcases step_next h with ⟨_, rfl⟩ | ⟨_, _, i, _, he⟩
  · exact ⟨[], 1, by simp, by simp, by simp⟩
  · obtain ⟨hparams, hdisplay, hasked⟩ := exec_ports he
    obtain ⟨n, hn⟩ := Nat.exists_eq_add_of_le (coreTurn_asked_le s)
    exact ⟨emittedEvents i (coreTurn s), n + answersTaken i, by simpa using hparams, by simpa using hdisplay,
      by rw [hasked, hn, Nat.add_assoc]⟩

/-- Settles O29: `load` sets the default parameters, and each turn of a step advances the ports only. -/
theorem parametersAreFixedAndEventsOnlyAdded : Obligations.ParametersAreFixedAndEventsOnlyAdded := by
  refine ⟨fun image s h => ?_, fun s t h => ?_⟩
  · obtain ⟨_, rfl⟩ := load_next_iff.1 h
    exact ⟨rfl, rfl, rfl, rfl⟩
  · obtain ⟨es, n, hparams, hdisplay, hasked⟩ := step_ports h
    exact ⟨hparams, ⟨es, hdisplay⟩, by omega⟩

/-! ## Sizes (R5) -/

/-- The class codes are 0 to 33 (D4). -/
theorem classCode_lt (i : Instr) : i.classCode < 34 := by
  cases i with | _ => simp [Instr.classCode]

/-- Exactly the addresses 0 to 0xFFF can be read (R36). -/
theorem memRead_ok_iff (s : State) (a : Nat) : (∃ u, memRead s a = .ok u) ↔ a < 4096 := by
  constructor
  · rintro ⟨u, hu⟩
    by_contra hge
    rw [memRead, if_neg (by omega)] at hu
    cases hu
  · intro hlt
    exact ⟨_, memRead_ok (by omega)⟩

/-- Settles O8: the widths and lengths are those of the model's types; the class codes, the memory accesses and `load`
have their bounds by the lemmas about them. -/
theorem configurationGivesTheSizes : Obligations.ConfigurationGivesTheSizes := by
  rintro s c rfl
  refine ⟨by simp, fun i => ⟨rfl, classCode_lt i⟩, rfl, fun _ => rfl, fun _ => rfl, by simp,
    fun r => r.index.isLt, rfl, rfl, rfl, rfl, by simp, Nat.le_of_lt_succ s.sp.isLt, fun _ _ => rfl,
    memRead_ok_iff s, fun image t h => ?_⟩
  obtain ⟨hfits, rfl⟩ := load_next_iff.1 h
  exact ⟨hfits, rfl⟩

end Sys2Proof.Machine

/-! # The invariant, the frame of every instruction, and the sound timer (spec/10 R16, R23, R24)

The invariant holds of every loaded state and is kept by every step. What an instruction leaves unchanged follows from
one rule per state operation. No instruction reads the sound timer. -/

namespace Sys2Proof.Machine

/-! ## What the branching instructions answered, given a next state -/

/-- A `Return` that answers a next state popped the entry on top into the pc (R101). -/
theorem ret_next {s t : State} (h : exec .ret s = .next t) :
    t = (s.withStack s.stack ⟨s.sp.val - 1, by omega⟩).goto s.top := by
  rw [exec, execRet] at h
  obtain ⟨_, hk⟩ := popThen_next h
  exact (Host.Outcome.next.inj hk).symm

/-- A `Call` that answers a next state pushed the return address at SP (R105). -/
theorem call_next {a : Address} {s t : State} (h : exec (.call a) s = .next t) :
    ∃ hr : s.sp.val < 12, t = (s.withStack (s.stack.set s.sp.val (s.pc + 2) hr) ⟨s.sp.val + 1, by omega⟩).goto
      (a.value.setWidth 16) := by
  rw [exec, execCall] at h
  obtain ⟨hr, hk⟩ := pushThen_next h
  exact ⟨hr, (Host.Outcome.next.inj hk).symm⟩

/-- A `WaitKey` took an answer, and then held or wrote the presented key and advanced (R173). -/
theorem waitKey_next {r : Register} {s t : State} (h : exec (.waitKey r) s = .next t) :
    t = s.answered ∨ ∃ u, t = (s.answered.setV r u).advance := by
  rw [exec, execWaitKey] at h
  cases hkey : Config.keyPresented s.asked with
  | none => rw [hkey] at h; exact .inl (Host.Outcome.next.inj h).symm
  | some k => rw [hkey] at h; exact .inr ⟨_, (Host.Outcome.next.inj h).symm⟩

/-! ## The invariant (R23, R105, R107) -/

/-- The pc after the sequential advance from a word that could be fetched does not wrap (R92, R159). -/
theorem toNat_add_two_of_fetchable {pc : Word} (h : pc.toNat ≤ 0xFFE) : (pc + 2).toNat = pc.toNat + 2 := by
  bv_omega

/-- The sequential advance from a pc that could be fetched stays within the bound on pc. -/
theorem advance_pc_le {s : State} (h : s.pc.toNat ≤ 0xFFE) : s.advance.pc.toNat ≤ 0x10FE := by
  rw [State.advance_pc, toNat_add_two_of_fetchable h]; omega

/-- A skip, taken or not, from a pc that could be fetched stays within the bound on pc (R93). -/
theorem skipIf_pc_le {s : State} (h : s.pc.toNat ≤ 0xFFE) (c : Bool) : (s.skipIf c).pc.toNat ≤ 0x10FE := by
  rw [State.skipIf_pc]
  split <;> bv_omega

/-- No jump target passes 0xFFF (R103). -/
theorem address_setWidth_toNat_lt (a : Address) : (a.value.setWidth 16).toNat < 4096 := by
  have ha := a.value.isLt
  rw [BitVec.toNat_setWidth]; omega

/-- The largest target of `JumpWithOffset` (R107). -/
theorem jumpOffsetTarget_toNat_le (s : State) (a : Address) : (jumpOffsetTarget s a).toNat ≤ 0x10FE := by
  have ha := a.value.isLt
  have hv := (s.getV (jumpOffsetRegister s a)).isLt
  simp only [jumpOffsetTarget, BitVec.toNat_add, BitVec.toNat_setWidth]; omega

/-- The bound on the stack entries survives the write of one more entry within it (R105). -/
theorem stack_set_le {stack : Vector Word 12} {n : Nat} {w : Word} (hn : n < 12) (hw : w.toNat ≤ 0x1000)
    (hs : ∀ k (h : k < 12), (stack[k]'h).toNat ≤ 0x1000) (k : Nat) (h : k < 12) :
    ((stack.set n w hn)[k]'h).toNat ≤ 0x1000 := by
  rw [Vector.getElem_set]
  split
  · exact hw
  · exact hs k h

/-- The invariant speaks of memory, pc and stack only. -/
theorem State.Inv.of_frame {s t : State} (hs : s.Inv) (hm : t.mem = s.mem) (hk : t.stack = s.stack)
    (hp : t.pc.toNat ≤ 0x10FE) : t.Inv := by
  obtain ⟨hmem, _, hstack⟩ := hs
  exact ⟨hm ▸ hmem, hp, hk ▸ hstack⟩

/-- A block stored inside memory keeps the invariant (R37). -/
theorem State.Inv.of_stored {s t : State} {base : Nat} {us : List Byte} (hs : s.Inv)
    (hb : base + us.length ≤ 4096) (hm : t.mem = s.mem.writeBlock base us) (hk : t.stack = s.stack)
    (hp : t.pc.toNat ≤ 0x10FE) : t.Inv := by
  obtain ⟨hmem, _, hstack⟩ := hs
  exact ⟨hm ▸ Memory.writeBlock_keeps_wf base us hb hmem, hp, hk ▸ hstack⟩

/-- Every instruction fetched inside 0x200 to 0xFFE keeps the invariant: the fetch range bounds the sequential pc and the
return address of `Call`, the stack bounds the target of `Return`. -/
theorem exec_keeps_inv {i : Instr} {s t : State} (hs : s.Inv) (hpc : s.pc.toNat ≤ 0xFFE)
    (h : exec i s = .next t) : t.Inv := by
  cases i with
  | ret =>
    obtain rfl := ret_next h
    have ⟨_, _, hstack⟩ := hs
    have htop : s.top.toNat ≤ 0x1000 := hstack _ _
    exact hs.of_frame rfl rfl (by rw [State.goto_pc]; omega)
  | call a =>
    obtain ⟨hroom, rfl⟩ := call_next h
    have ha := address_setWidth_toNat_lt a
    have hret := toNat_add_two_of_fetchable hpc
    obtain ⟨hmem, _, hstack⟩ := hs
    exact ⟨hmem, by rw [State.goto_pc]; omega, stack_set_le hroom (by omega) hstack⟩
  | jump a =>
    obtain rfl := Host.Outcome.next.inj h
    have ha := address_setWidth_toNat_lt a
    exact hs.of_frame rfl rfl (by rw [State.goto_pc]; omega)
  | jumpWithOffset a =>
    obtain rfl := Host.Outcome.next.inj h
    exact hs.of_frame rfl rfl (jumpOffsetTarget_toNat_le s a)
  | skipEqualConstant | skipNotEqualConstant | skipEqualRegister | skipNotEqualRegister | skipKeyEqual
  | skipKeyNotEqual =>
    obtain rfl := Host.Outcome.next.inj h
    exact hs.of_frame rfl rfl (skipIf_pc_le hpc _)
  | waitKey =>
    rcases waitKey_next h with rfl | ⟨u, rfl⟩
    · exact hs.of_frame rfl rfl (by rw [State.answered_pc]; omega)
    · exact hs.of_frame rfl rfl (advance_pc_le hpc)
  | storeBCD | contextStore =>
    obtain ⟨hb, hk⟩ := withBounds_next h
    obtain rfl := Host.Outcome.next.inj hk
    exact hs.of_stored (by simp [bcdDigits, contextCount] at hb ⊢; omega) rfl rfl (advance_pc_le hpc)
  | draw | contextLoad =>
    obtain ⟨_, hk⟩ := withBounds_next h
    obtain rfl := Host.Outcome.next.inj hk
    exact hs.of_frame rfl rfl (advance_pc_le hpc)
  | _ =>
    obtain rfl := Host.Outcome.next.inj h
    exact hs.of_frame (by simp) (by simp) (advance_pc_le (by simpa using hpc))

/-- Settles O24: a tick touches no part the invariant speaks of, and the core ran a fetched instruction. -/
theorem everyStepKeepsTheInvariant : Obligations.EveryStepKeepsTheInvariant := by
  intro s t hs h
  have ⟨_, hpc, _⟩ := hs
  rcases step_next h with ⟨_, rfl⟩ | ⟨_, ⟨_, hfetch⟩, i, _, he⟩
  · exact hs.of_frame rfl rfl hpc
  · have hturn : (coreTurn s).Inv := hs.of_frame (by simp) (by simp) (by simpa using hpc)
    exact exec_keeps_inv hturn (by simpa using hfetch) he

/-- The reset state meets the invariant: memory and stack are zeroed and the pc is the entry point (R22, R235). -/
theorem reset_inv : State.reset.Inv :=
  ⟨rfl, by decide, fun k h => by simp [State.reset]⟩

/-- Settles O10: an image that fits gives a canonical memory, and the rest is the reset state. -/
theorem loadedStatesSatisfyTheInvariant : Obligations.LoadedStatesSatisfyTheInvariant := by
  refine ⟨reset_inv, rfl, fun image s h => ?_⟩
  obtain ⟨hfits, rfl⟩ := load_next_iff.1 h
  obtain ⟨_, hpc, hstack⟩ := reset_inv
  exact ⟨Memory.ofBytes_wf _ image (show 0x200 + image.length ≤ 4096 by omega), hpc, hstack⟩

/-! ## What an instruction writes (R24): one rule per state operation -/

/-- Writing back the index register that a store left alone changes nothing (R185, D14). -/
@[simp] theorem State.storeBytes_setI_iReg (s : State) (base : Nat) (us : List Byte) :
    (s.storeBytes base us).setI s.iReg = s.storeBytes base us := rfl

/-- Writing back the index register that a register load left alone changes nothing (R187, D14). -/
@[simp] theorem State.loadRegs_setI_iReg (s : State) (us : List Byte) :
    (s.loadRegs us).setI s.iReg = s.loadRegs us := rfl

theorem changesOnly_refl (parts : List StatePart) (s : State) : changesOnly parts s s := by
  intro p _
  cases p <;> simp [samePart]

/-- An update of a listed part leaves the frame as it was. That the update changes that part only is read off the field
lemmas of the operation. -/
theorem changesOnly_update {parts : List StatePart} {q : StatePart} {s t u : State} (hq : q ∈ parts)
    (hu : changesOnly [q] t u := by intro p hp; cases p <;> simp_all [samePart]) :
    changesOnly parts s u ↔ changesOnly parts s t := by
  have hpart : ∀ p, p ∉ parts → (samePart p s u ↔ samePart p s t) := by
    intro p hp
    have hsame := hu p fun hmem => hp (List.mem_singleton.1 hmem ▸ hq)
    cases p <;> simp_all [samePart]
  exact forall_congr' fun p => imp_congr_right (hpart p)

section Frame

variable {parts : List StatePart} {s t : State}

@[simp] theorem changesOnly_advance (h : .pc ∈ parts) :
    changesOnly parts s t.advance ↔ changesOnly parts s t :=
  changesOnly_update h

@[simp] theorem changesOnly_skipIf (h : .pc ∈ parts) (c : Bool) :
    changesOnly parts s (t.skipIf c) ↔ changesOnly parts s t :=
  changesOnly_update h

@[simp] theorem changesOnly_goto (h : .pc ∈ parts) (w : Word) :
    changesOnly parts s (t.goto w) ↔ changesOnly parts s t :=
  changesOnly_update h

@[simp] theorem changesOnly_setV (h : .v ∈ parts) (r : Register) (u : Byte) :
    changesOnly parts s (t.setV r u) ↔ changesOnly parts s t :=
  changesOnly_update h

@[simp] theorem changesOnly_setResultFlag (h : .v ∈ parts) (x : Register) (u f : Byte) :
    changesOnly parts s (t.setResultFlag x u f) ↔ changesOnly parts s t := by
  simp [State.setResultFlag, h]

@[simp] theorem changesOnly_setLogicResult (h : .v ∈ parts) (x : Register) (u : Byte) :
    changesOnly parts s (t.setLogicResult x u) ↔ changesOnly parts s t := by
  unfold State.setLogicResult
  split <;> simp [h]

@[simp] theorem changesOnly_loadRegs (h : .v ∈ parts) (us : List Byte) :
    changesOnly parts s (t.loadRegs us) ↔ changesOnly parts s t :=
  changesOnly_update h

@[simp] theorem changesOnly_storeBytes (h : .mem ∈ parts) (base : Nat) (us : List Byte) :
    changesOnly parts s (t.storeBytes base us) ↔ changesOnly parts s t :=
  changesOnly_update h

@[simp] theorem changesOnly_setI (h : .iReg ∈ parts) (a : Word) :
    changesOnly parts s (t.setI a) ↔ changesOnly parts s t :=
  changesOnly_update h

@[simp] theorem changesOnly_setDT (h : .dt ∈ parts) (u : Byte) :
    changesOnly parts s (t.setDT u) ↔ changesOnly parts s t :=
  changesOnly_update h

@[simp] theorem changesOnly_setST (h : .st ∈ parts) (u : Byte) :
    changesOnly parts s (t.setST u) ↔ changesOnly parts s t :=
  changesOnly_update h

@[simp] theorem changesOnly_answered (h : .asked ∈ parts) :
    changesOnly parts s t.answered ↔ changesOnly parts s t :=
  changesOnly_update h

@[simp] theorem changesOnly_emit (h : .display ∈ parts) (e : DisplayEvent) :
    changesOnly parts s (t.emit e) ↔ changesOnly parts s t :=
  changesOnly_update h

/-- A depth moved over the same entries touches SP only (R101). -/
@[simp] theorem changesOnly_withStack_same (h : .sp ∈ parts) (d : Fin 13) :
    changesOnly parts s (t.withStack t.stack d) ↔ changesOnly parts s t :=
  changesOnly_update h

@[simp] theorem changesOnly_withStack (hsp : .sp ∈ parts) (hstack : .stack ∈ parts) (e : Vector Word 12)
    (d : Fin 13) : changesOnly parts s (t.withStack e d) ↔ changesOnly parts s t := by
  have hentries : changesOnly parts s (t.withStack e t.sp) ↔ changesOnly parts s t := changesOnly_update hstack
  rw [← hentries, ← changesOnly_withStack_same hsp (t := t.withStack e t.sp) d]
  rfl

end Frame

/-! ## The access table's column "writes" (R24) -/

/-- Every part the access table does not list is unchanged. -/
theorem exec_changesOnly {i : Instr} {s t : State} (h : exec i s = .next t) :
    changesOnly (mayWrite s.params i) s t := by
  have hrefl := changesOnly_refl (mayWrite s.params i) s
  cases i with
  | ret =>
    obtain rfl := ret_next h
    simpa [mayWrite] using hrefl
  | call a =>
    obtain ⟨_, rfl⟩ := call_next h
    simpa [mayWrite] using hrefl
  | waitKey =>
    rcases waitKey_next h with rfl | ⟨u, rfl⟩ <;> simpa [mayWrite] using hrefl
  | contextStore | contextLoad =>
    obtain ⟨_, hk⟩ := withBounds_next h
    obtain rfl := Host.Outcome.next.inj hk
    cases hincr : s.params.memIncrI with
    | true => simpa [mayWrite, hincr] using hrefl
    | false => simpa [mayWrite, hincr, contextIndex] using hrefl
  | draw | storeBCD =>
    obtain ⟨_, hk⟩ := withBounds_next h
    obtain rfl := Host.Outcome.next.inj hk
    simpa [mayWrite] using hrefl
  | _ =>
    obtain rfl := Host.Outcome.next.inj h
    simpa [mayWrite] using hrefl

/-- Every register the access table does not list is unchanged. -/
theorem exec_getV_of_not_mayWriteReg {i : Instr} {s t : State} (h : exec i s = .next t) {r : Register}
    (hr : mayWriteReg s.params r i = false) : t.getV r = s.getV r := by
  cases i with
  | loadConstant | addConstant | copy | rand | loadDelayTimer | or | and | xor | add | sub | minusSub | shiftRight
  | shiftLeft =>
    obtain rfl := Host.Outcome.next.inj h
    simp_all [mayWriteReg]
  | waitKey =>
    rcases waitKey_next h with rfl | ⟨u, rfl⟩ <;> simp_all [mayWriteReg]
  | draw =>
    obtain ⟨_, hk⟩ := withBounds_next h
    obtain rfl := Host.Outcome.next.inj hk
    simp_all [mayWriteReg]
  | contextLoad x =>
    obtain ⟨_, hk⟩ := withBounds_next h
    obtain rfl := Host.Outcome.next.inj hk
    have hx : ¬ r.index.toNat < contextCount x := by simp [mayWriteReg, contextCount] at hr ⊢; omega
    simp [hx]
  | contextStore =>
    refine exec_changesOnly h .v ?_ r
    simp only [mayWrite]
    split <;> simp
  | _ => exact exec_changesOnly h .v (by simp [mayWrite]) r

/-- Every byte of memory outside those the instruction stores from `I` up is unchanged. -/
theorem exec_read_outside {i : Instr} {s t : State} (h : exec i s = .next t) {a : Nat}
    (ha : a < s.iReg.toNat ∨ s.iReg.toNat + storedCount i ≤ a) : t.mem.read a = s.mem.read a := by
  cases i with
  | storeBCD | contextStore =>
    obtain ⟨_, hk⟩ := withBounds_next h
    obtain rfl := Host.Outcome.next.inj hk
    exact Memory.read_writeBlock_outside _ _ _ _ (by simpa [storedCount, bcdDigits] using ha)
  | contextLoad =>
    refine exec_changesOnly h .mem ?_ a
    simp only [mayWrite]
    split <;> simp
  | _ => exact exec_changesOnly h .mem (by simp [mayWrite]) a

/-- Every stack entry but the one at SP is unchanged. -/
theorem exec_stack_of_ne_sp {i : Instr} {s t : State} (h : exec i s = .next t) {k : Nat} (hk : k < 12)
    (hne : k ≠ s.sp.val) : t.stack[k]'hk = s.stack[k]'hk := by
  cases i with
  | call =>
    obtain ⟨hr, rfl⟩ := call_next h
    exact Vector.getElem_set_ne hr hk hne.symm
  | contextStore | contextLoad =>
    have hs : t.stack = s.stack := exec_changesOnly h .stack (by simp only [mayWrite]; split <;> simp)
    rw [hs]
  | _ =>
    have hs : t.stack = s.stack := exec_changesOnly h .stack (by simp [mayWrite])
    rw [hs]

/-- Settles O25: parts, registers, memory and stack entries each have their lemma, by cases on the instruction. -/
theorem instructionsWriteOnlyWhatTheAccessTableLists :
    Obligations.InstructionsWriteOnlyWhatTheAccessTableLists :=
  fun _ _ _ h => ⟨exec_changesOnly h, fun _ => exec_getV_of_not_mayWriteReg h, fun _ => exec_read_outside h,
    fun _ => exec_stack_of_ne_sp h⟩

/-! ## The sound timer (R16, R24) -/

/-- The outcome with `u` in the sound timer of the state it holds, if any. -/
def resultWithSound (u : Byte) : Result → Result
  | .next t => .next (t.setST u)
  | r => r

/-- The bounds check comes before the result is looked at. -/
theorem withBounds_withSound (u : Byte) (base n : Nat) (r : Result) :
    withBounds base n (resultWithSound u r) = resultWithSound u (withBounds base n r) := by
  unfold withBounds
  split <;> rfl

theorem setLogicResult_setST (s : State) (u : Byte) (x : Register) (v : Byte) :
    (s.setST u).setLogicResult x v = (s.setLogicResult x v).setST u := by
  unfold State.setLogicResult
  rw [State.setST_params]
  split <;> rfl

theorem ret_setST (s : State) (u : Byte) : execRet (s.setST u) = resultWithSound u (execRet s) := by
  unfold execRet
  by_cases hsp : s.sp.val = 0
  · rw [popThen_empty hsp, popThen_empty (s := s.setST u) hsp]
    rfl
  · rw [popThen_live hsp, popThen_live (s := s.setST u) hsp]
    rfl

theorem call_setST (a : Address) (s : State) (u : Byte) :
    execCall a (s.setST u) = resultWithSound u (execCall a s) := by
  unfold execCall
  by_cases hroom : s.sp.val < 12
  · rw [pushThen_room hroom, pushThen_room (s := s.setST u) hroom]
    rfl
  · have hfull : s.sp.val = 12 := by omega
    rw [pushThen_full hfull, pushThen_full (s := s.setST u) hfull]
    rfl

theorem waitKeyWith_setST (key : Option (BitVec 4)) (r : Register) (s : State) (u : Byte) :
    waitKeyWith key r (s.setST u) = resultWithSound u (waitKeyWith key r s) := by
  cases key <;> rfl

/-- With another value in ST every instruction but `StoreBeepTimer` answers as before, but for that value. -/
theorem exec_setST {i : Instr} (s : State) (u : Byte) (hi : ∀ r, i ≠ .storeBeepTimer r) :
    exec i (s.setST u) = resultWithSound u (exec i s) := by
  cases i with
  | storeBeepTimer r => exact absurd rfl (hi r)
  | ret => exact ret_setST s u
  | call a => exact call_setST a s u
  | waitKey r => exact waitKeyWith_setST _ r s u
  | or x y | and x y | xor x y =>
    simp only [exec, execOr, execAnd, execXor, setLogicResult_setST]
    rfl
  | draw | storeBCD | contextStore | contextLoad =>
    simp only [exec, execDraw, drawWith, execStoreBCD, execContextStore, execContextLoad, ← withBounds_withSound]
    rfl
  | _ => rfl

/-- Settles O31: by `exec_setST`; `StoreBeepTimer` overwrites the other value. -/
theorem noInstructionReadsTheSoundTimer : Obligations.NoInstructionReadsTheSoundTimer := by
  intro i s u
  show (∀ t, exec i s = .next t → (∀ r, i ≠ .storeBeepTimer r) → exec i (s.setST u) = .next (t.setST u)) ∧
    (∀ t, exec i s = .next t → (∃ r, i = .storeBeepTimer r) → exec i (s.setST u) = .next t) ∧
    ∀ f, exec i s = .fault f → exec i (s.setST u) = .fault f
  refine ⟨fun t h hi => ?_, ?_, fun f h => ?_⟩
  · rw [exec_setST s u hi, h, resultWithSound]
  · rintro t h ⟨r, rfl⟩
    exact h
  · have hi : ∀ r, i ≠ .storeBeepTimer r := by rintro r rfl; cases h
    rw [exec_setST s u hi, h]
    rfl

end Sys2Proof.Machine

/-! # Bytes and memory (spec/10 R30, R31, R33, R36, R37, R43; spec/30 R50)

The byte order of a word, the byte accesses, the uniqueness of the canonical form, and the fetch of bytes that an
instruction stored. -/

namespace Sys2Proof.Machine

/-! ## Big-endian words (R33, R50) -/

/-- Two bytes as a word, in numbers. -/
theorem wordOfBytes_eq_ofNat (hi lo : Byte) : wordOfBytes hi lo = BitVec.ofNat 16 (hi.toNat * 256 + lo.toNat) := by
  apply BitVec.eq_of_toNat_eq
  rw [wordOfBytes_toNat, BitVec.toNat_ofNat]
  omega

/-- The bytes of a word in the table's numbering decode as the word. -/
theorem decodeTableWord_toNat (w : Word) : decodeTableWord 16 w.toNat = decode w := by
  have hw : BitVec.ofNat 16 (w.toNat % 2 ^ 16) = w := by
    rw [Nat.mod_eq_of_lt w.isLt, BitVec.ofNat_toNat, BitVec.setWidth_eq]
  rw [decodeTableWord, tableWordBytes, hw, decodeBytes, wordOfBytes_split]
  cases decode w with
  | none => rfl
  | some i => rfl

/-- Settles O7: the word of two bytes is `256 * hi + lo`, and a word's two bytes give the word back. -/
theorem bytesDecodeBigEndian : Obligations.BytesDecodeBigEndian := by
  refine ⟨fun hi lo rest => ?_, ⟨rfl, fun _ => rfl⟩, decodeTableWord_toNat⟩
  rw [← wordOfBytes_eq_ofNat]
  rfl

/-! ## Byte accesses (R36, R37) -/

theorem memRead_fault {s : State} {a : Nat} (h : 0xFFF < a) : memRead s a = .error (.memoryOutOfBounds a) :=
  if_neg (by omega)

theorem memRead2_ok {s : State} {a : Nat} (h : a + 1 ≤ 0xFFF) :
    memRead2 s a = .ok (wordOfBytes (s.mem.read a) (s.mem.read (a + 1))) := by
  rw [memRead2, memRead_ok (by omega), memRead_ok h]

/-- A byte write inside memory is the store of a block of one byte. -/
theorem memWrite_ok {s : State} {a : Nat} (h : a ≤ 0xFFF) (u : Byte) : memWrite s a u = .ok (s.storeBytes a [u]) :=
  if_pos h

theorem memWrite_fault {s : State} {a : Nat} (h : 0xFFF < a) (u : Byte) :
    memWrite s a u = .error (.memoryOutOfBounds a) :=
  if_neg (by omega)

/-- Settles O13: each access has its lemma inside memory and above it; what a write changes is that of the store of one
byte. -/
theorem memReadAndMemWrite : Obligations.MemReadAndMemWrite := by
  refine ⟨fun _ _ => memRead_ok, fun _ _ => memRead_fault, fun _ _ => memRead2_ok, fun s a u h => ?_,
    fun _ _ u h => memWrite_fault h u⟩
  have hframe : changesOnly [.mem] s (s.storeBytes a [u]) :=
    (changesOnly_storeBytes (by simp) a [u]).2 (changesOnly_refl _ s)
  exact ⟨s.storeBytes a [u], memWrite_ok h u, hframe, Memory.read_write s.mem a u⟩

/-! ## The canonical form is unique (R30, R31) -/

theorem Memory.read_cons (a : Nat) (u : Byte) (m : Memory) (b : Nat) :
    Memory.read ((a, u) :: m) b = if a = b then u else m.read b := rfl

/-- Below the bound of a canonical memory every byte reads 0. -/
theorem Memory.read_eq_zero_of_lt {low : Nat} {m : Memory} (hm : Memory.wfFrom low m = true) {b : Nat} (hb : b < low) :
    m.read b = 0 := by
  induction m generalizing low with
  | nil => rfl
  | cons c m ih =>
    obtain ⟨a, u⟩ := c
    obtain ⟨hlow, _, _, hrest⟩ := (Memory.wfFrom_cons low a u m).1 hm
    rw [Memory.read_cons, if_neg (by omega)]
    exact ih hrest (by omega)

/-- The first address listed is the least that does not read 0. -/
theorem Memory.head_le_of_read_ne_zero {low a : Nat} {u : Byte} {m : Memory}
    (hm : Memory.wfFrom low ((a, u) :: m) = true) {b : Nat} (hb : Memory.read ((a, u) :: m) b ≠ 0) : a ≤ b := by
  obtain ⟨_, hrest⟩ := (Memory.wfFrom_cons low a u m).1 hm
  have hhead : Memory.wfFrom a ((a, u) :: m) = true := (Memory.wfFrom_cons a a u m).2 ⟨le_refl a, hrest⟩
  by_contra hlt
  exact hb (Memory.read_eq_zero_of_lt hhead (by omega))

/-- A canonical memory that lists a byte does not read 0 everywhere. -/
theorem Memory.read_head_ne_zero {low a : Nat} {u : Byte} {m : Memory}
    (hm : Memory.wfFrom low ((a, u) :: m) = true) : Memory.read ((a, u) :: m) a ≠ 0 := by
  obtain ⟨_, _, hu, _⟩ := (Memory.wfFrom_cons low a u m).1 hm
  rwa [Memory.read_cons, if_pos rfl]

/-- Two canonical memories that read the same have the same first entry, and their rests read the same. -/
theorem Memory.eq_of_read_eq {low : Nat} {m m' : Memory} (hm : Memory.wfFrom low m = true)
    (hm' : Memory.wfFrom low m' = true) (hread : ∀ b, m.read b = m'.read b) : m = m' := by
  induction m generalizing low m' with
  | nil =>
    cases m' with
    | nil => rfl
    | cons c' m' => exact absurd (hread c'.1).symm (Memory.read_head_ne_zero hm')
  | cons c m ih =>
    obtain ⟨a, u⟩ := c
    cases m' with
    | nil => exact absurd (hread a) (Memory.read_head_ne_zero hm)
    | cons c' m' =>
      obtain ⟨a', u'⟩ := c'
      have hle : a ≤ a' := Memory.head_le_of_read_ne_zero hm (hread a' ▸ Memory.read_head_ne_zero hm')
      have hge : a' ≤ a := Memory.head_le_of_read_ne_zero hm' (hread a ▸ Memory.read_head_ne_zero hm)
      obtain rfl : a = a' := by omega
      obtain rfl : u = u' := by simpa [Memory.read_cons] using hread a
      obtain ⟨_, _, _, hrest⟩ := (Memory.wfFrom_cons low a u m).1 hm
      obtain ⟨_, _, _, hrest'⟩ := (Memory.wfFrom_cons low a u m').1 hm'
      have htail : ∀ b, Memory.read m b = Memory.read m' b := fun b => by
        by_cases hb : a = b
        · rw [Memory.read_eq_zero_of_lt hrest (by omega), Memory.read_eq_zero_of_lt hrest' (by omega)]
        · simpa [Memory.read_cons, hb] using hread b
      rw [ih hrest hrest' htail]

/-- Settles O14: by induction on the list, for canonical memories from any lowest address up. -/
theorem canonicalMemoriesAreEqualWhenTheyReadEqual : Obligations.CanonicalMemoriesAreEqualWhenTheyReadEqual :=
  fun _ _ hm hm' hread => Memory.eq_of_read_eq hm hm' hread

/-! ## Fetching what an instruction stored (R43, R183, R185) -/

/-- A `ContextStore` that answers a next state stored `V[0]` to `V[x]` from `I` up (R185). -/
theorem contextStore_next {x : Register} {s t : State} (h : exec (.contextStore x) s = .next t) :
    s.iReg.toNat + contextCount x ≤ 4096 ∧
      t = ((s.storeBytes s.iReg.toNat (contextBytes s x)).setI (contextIndex s x)).advance := by
  obtain ⟨hb, hk⟩ := withBounds_next h
  exact ⟨by simp only [contextCount] at hb ⊢; omega, (Host.Outcome.next.inj hk).symm⟩

/-- A `StoreBCD` that answers a next state stored the three digits from `I` up (R183). -/
theorem storeBCD_next {r : Register} {s t : State} (h : exec (.storeBCD r) s = .next t) :
    s.iReg.toNat + 3 ≤ 4096 ∧ t = (s.storeBytes s.iReg.toNat (bcdDigits (s.getV r))).advance := by
  obtain ⟨hb, hk⟩ := withBounds_next h
  exact ⟨by omega, (Host.Outcome.next.inj hk).symm⟩

theorem toNat_ofNat_of_lt {w n : Nat} (h : n < 2 ^ w) : (BitVec.ofNat w n).toNat = n := by
  rw [BitVec.toNat_ofNat, Nat.mod_eq_of_lt h]

/-- The k-th byte a `ContextStore` stores, by its number (R185). -/
theorem contextBytes_getD_ofNat (s : State) {x : Register} {k : Nat} (hk : k ≤ x.index.toNat) :
    (contextBytes s x).getD k 0 = s.getV ⟨BitVec.ofNat 4 k⟩ := by
  have hindex : (BitVec.ofNat 4 k).toNat = k := toNat_ofNat_of_lt (lt_of_le_of_lt hk x.index.isLt)
  have hbyte := contextBytes_getD s x ⟨BitVec.ofNat 4 k⟩ (by rw [hindex]; exact hk)
  rwa [hindex] at hbyte

/-- No digit is cut off: hundreds, tens and ones as numbers (R183). -/
theorem bcdDigits_toNat (u : Byte) :
    ((bcdDigits u).getD 0 0).toNat = u.toNat / 100 ∧ ((bcdDigits u).getD 1 0).toNat = u.toNat / 10 % 10 ∧
      ((bcdDigits u).getD 2 0).toNat = u.toNat % 10 :=
  have hu := u.isLt
  ⟨toNat_ofNat_of_lt (by omega), toNat_ofNat_of_lt (by omega), toNat_ofNat_of_lt (by omega)⟩

/-- A fetch at the k-th byte of a stored block reads that byte and the next one (R43). -/
theorem fetch_writeBlock {t : State} {m : Memory} {base k : Nat} {us : List Byte} {p : Word}
    (hmem : t.mem = m.writeBlock base us) (hlow : 0x200 ≤ p.toNat) (hhigh : p.toNat ≤ 0xFFE)
    (hp : p.toNat = base + k) (hk : k + 1 < us.length) :
    fetch { t with pc := p } = .ok (wordOfBytes (us.getD k 0) (us.getD (k + 1) 0)) := by
  have hstored : ∀ j, j < us.length → t.mem.read (base + j) = us.getD j 0 := fun j hj => by
    rw [hmem, Memory.read_writeBlock, if_pos (by omega), Nat.add_sub_cancel_left]
  rw [fetch_ok ((fetchable_iff p).2 ⟨hlow, hhigh⟩)]
  show Except.ok (wordOfBytes (t.mem.read p.toNat) (t.mem.read (p.toNat + 1))) = _
  rw [hp, hstored k (by omega), Nat.add_assoc, hstored (k + 1) hk]

/-- Settles O15: the two bytes at the pc are two neighbours in the stored block, at the distance of the pc from `I`. -/
theorem storesAreSeenByTheNextFetch : Obligations.StoresAreSeenByTheNextFetch := by
  refine ⟨fun x s t p h hlow hhigh hfirst hlast => ?_, fun r s t p h hlow hhigh => ?_⟩
  · obtain ⟨_, rfl⟩ := contextStore_next h
    obtain ⟨k, hk⟩ := Nat.exists_eq_add_of_le hfirst
    have hlen : k + 1 < (contextBytes s x).length := by rw [contextBytes_length, contextCount]; omega
    rw [fetch_writeBlock rfl hlow hhigh hk hlen, contextBytes_getD_ofNat s (by omega),
      contextBytes_getD_ofNat s (by omega), hk, Nat.add_assoc, Nat.add_sub_cancel_left, Nat.add_sub_cancel_left]
    rfl
  · obtain ⟨_, rfl⟩ := storeBCD_next h
    obtain ⟨hhundreds, htens, hones⟩ := bcdDigits_toNat (s.getV r)
    have hlen : (bcdDigits (s.getV r)).length = 3 := rfl
    refine ⟨fun hp => ⟨_, fetch_writeBlock (k := 0) rfl hlow hhigh hp (by omega), ?_⟩,
      fun hp => ⟨_, fetch_writeBlock (k := 1) rfl hlow hhigh hp (by omega), ?_⟩⟩
    · rw [wordOfBytes_toNat, hhundreds, htens]
    · rw [wordOfBytes_toNat, htens, hones]

end Sys2Proof.Machine

/-! # Encoding (spec/30 R52, R54, R56 to R61, R66)

The operands of a word and its masked bits give the word back, so that encode inverts decode; the rows of the opcode
table against the decoder; and the number of valid words of each leading nibble. -/

namespace Sys2Proof.Machine

/-! ## The encoder on the fields of a word (R52, R54, R66) -/

theorem exists_word_nibbles (w : Word) : ∃ f x y n : BitVec 4, w = wordOfNibbles f x y n :=
  ⟨_, _, _, _, word_eq_nibbles w⟩

@[simp] theorem operandX_nibbles (f x y n : BitVec 4) : operandX (wordOfNibbles f x y n) = ⟨x⟩ :=
  congrArg Register.mk (secondNibble_nibbles f x y n)

@[simp] theorem operandY_nibbles (f x y n : BitVec 4) : operandY (wordOfNibbles f x y n) = ⟨y⟩ :=
  congrArg Register.mk (thirdNibble_nibbles f x y n)

@[simp] theorem operandN_nibbles (f x y n : BitVec 4) : operandN (wordOfNibbles f x y n) = ⟨n⟩ :=
  congrArg Constant4.mk (lastNibble_nibbles f x y n)

@[simp] theorem operandNN_nibbles (f x y n : BitVec 4) : operandNN (wordOfNibbles f x y n) = ⟨y ++ n⟩ :=
  congrArg Constant8.mk (lastByte_nibbles f x y n)

@[simp] theorem operandNNN_nibbles (f x y n : BitVec 4) : operandNNN (wordOfNibbles f x y n) = ⟨x ++ y ++ n⟩ :=
  congrArg Address.mk (addressField_nibbles f x y n)

/-- In format `A` a word is its masked bits and its field NNN. -/
theorem encodeA_operands {w bits : Word} (h : w &&& 0xF000#16 = bits) : encodeA bits (operandNNN w) = w := by
  obtain ⟨f, x, y, n, rfl⟩ := exists_word_nibbles w
  rw [← h, mask_F000, operandNNN_nibbles, encodeA_nibbles]

theorem encodeRC_operands {w bits : Word} (h : w &&& 0xF000#16 = bits) :
    encodeRC bits (operandX w) (operandNN w) = w := by
  obtain ⟨f, x, y, n, rfl⟩ := exists_word_nibbles w
  rw [← h, mask_F000, operandX_nibbles, operandNN_nibbles, encodeRC_nibbles]

theorem encodeRRN_operands {w bits : Word} (h : w &&& 0xF000#16 = bits) :
    encodeRRN bits (operandX w) (operandY w) (operandN w) = w := by
  obtain ⟨f, x, y, n, rfl⟩ := exists_word_nibbles w
  rw [← h, mask_F000, operandX_nibbles, operandY_nibbles, operandN_nibbles, encodeRRN_nibbles]

theorem encodeRR_operands {w bits : Word} (h : w &&& 0xF00F#16 = bits) :
    encodeRR bits (operandX w) (operandY w) = w := by
  obtain ⟨f, x, y, n, rfl⟩ := exists_word_nibbles w
  rw [← h, mask_F00F, operandX_nibbles, operandY_nibbles, encodeRR_nibbles]

theorem encodeR_operands {w bits : Word} (h : w &&& 0xF0FF#16 = bits) : encodeR bits (operandX w) = w := by
  obtain ⟨f, x, y, n, rfl⟩ := exists_word_nibbles w
  rw [← h, mask_F0FF, operandX_nibbles, encodeR_nibbles]

/-! ## The masked bits of a word from the fields the decoder looks at (R54, R56) -/

theorem and_F000_eq {w : Word} {f : BitVec 4} (hf : leadingNibble w = f) :
    w &&& 0xF000#16 = wordOfNibbles f 0 0 0 := by
  obtain ⟨f, x, y, n, rfl⟩ := exists_word_nibbles w
  rw [← hf, mask_F000, leadingNibble_nibbles]

theorem and_F00F_eq {w : Word} {f n : BitVec 4} (hf : leadingNibble w = f) (hn : lastNibble w = n) :
    w &&& 0xF00F#16 = wordOfNibbles f 0 0 n := by
  obtain ⟨f, x, y, n, rfl⟩ := exists_word_nibbles w
  rw [← hf, ← hn, mask_F00F, leadingNibble_nibbles, lastNibble_nibbles]

theorem wordOfBytes_nibbles (f x y n : BitVec 4) : wordOfBytes (f ++ x) (y ++ n) = wordOfNibbles f x y n := by
  apply BitVec.eq_of_toNat_eq
  rw [wordOfBytes_toNat, toNat_append4, toNat_append4, toNat_nibbles]; omega

theorem and_F0FF_eq {w : Word} {f : BitVec 4} (hf : leadingNibble w = f) :
    w &&& 0xF0FF#16 = wordOfBytes (f ++ 0#4) (lastByte w) := by
  obtain ⟨f, x, y, n, rfl⟩ := exists_word_nibbles w
  rw [← hf, mask_F0FF, leadingNibble_nibbles, lastByte_nibbles, wordOfBytes_nibbles]; rfl

/-! ## The word of a decoded operation (R66, R74 to R76) -/

theorem encode_of_decodeAlu {n : BitVec 4} {x y : Register} {i : Instr} (h : decodeAlu n x y = some i) :
    encode i = encodeRR (wordOfNibbles 0x8#4 0 0 n) x y := by
  unfold decodeAlu at h
  split at h <;> cases h <;> rfl

theorem encode_of_decodeKey {kk : Byte} {x : Register} {i : Instr} (h : decodeKey kk x = some i) :
    encode i = encodeR (wordOfBytes 0xE0#8 kk) x := by
  unfold decodeKey at h
  split at h <;> cases h <;> rfl

theorem encode_of_decodeMisc {kk : Byte} {x : Register} {i : Instr} (h : decodeMisc kk x = some i) :
    encode i = encodeR (wordOfBytes 0xF0#8 kk) x := by
  unfold decodeMisc at h
  split at h <;> cases h <;> rfl

/-- Arm `h_k` of the dispatch is that of leading nibble k, and `h_16` that of leading nibble 0 (R72, R77). -/
theorem encode_of_decodeDispatch {w : Word} {i : Instr} (h : decodeDispatch w = some i) : encode i = w := by
  unfold decodeDispatch at h
  split at h
  case h_1 hf | h_2 hf | h_10 hf | h_11 hf => cases h; exact encodeA_operands (and_F000_eq hf)
  case h_3 hf | h_4 hf | h_6 hf | h_7 hf | h_12 hf => cases h; exact encodeRC_operands (and_F000_eq hf)
  case h_5 hf | h_9 hf =>
    split at h
    next hn => cases h; exact encodeRR_operands (and_F00F_eq hf hn)
    next => cases h
  case h_8 hf => rw [encode_of_decodeAlu h]; exact encodeRR_operands (and_F00F_eq hf rfl)
  case h_13 hf => cases h; exact encodeRRN_operands (and_F000_eq hf)
  case h_14 hf =>
    rw [encode_of_decodeKey h]
    have hbits := and_F0FF_eq hf
    exact encodeR_operands hbits
  case h_15 hf =>
    rw [encode_of_decodeMisc h]
    have hbits := and_F0FF_eq hf
    exact encodeR_operands hbits
  case h_16 => cases h

/-- No bit of a valid word is lost: the bits outside the operands are fixed by the operation (R61, R66). -/
theorem encode_of_decode {w : Word} {i : Instr} (h : decode w = some i) : encode i = w := by
  unfold decode at h
  split at h
  next hw => cases h; exact hw.symm
  next =>
    split at h
    next hw => cases h; exact hw.symm
    next => exact encode_of_decodeDispatch h

/-! ## Decoding the word of an operation (R66, R72 to R76) -/

theorem encodeA_eq_nibbles {bits : Word} (hb : bits = wordOfNibbles (leadingNibble bits) 0 0 0) (x y n : BitVec 4) :
    encodeA bits ⟨x ++ y ++ n⟩ = wordOfNibbles (leadingNibble bits) x y n := by
  conv_lhs => rw [hb, encodeA_nibbles]

theorem encodeRC_eq_nibbles {bits : Word} (hb : bits = wordOfNibbles (leadingNibble bits) 0 0 0) (x : Register)
    (y n : BitVec 4) : encodeRC bits x ⟨y ++ n⟩ = wordOfNibbles (leadingNibble bits) x.index y n := by
  conv_lhs => rw [hb, encodeRC_nibbles]

theorem encodeRRN_eq_nibbles {bits : Word} (hb : bits = wordOfNibbles (leadingNibble bits) 0 0 0) (x y : Register)
    (n : Constant4) : encodeRRN bits x y n = wordOfNibbles (leadingNibble bits) x.index y.index n.value := by
  conv_lhs => rw [hb, encodeRRN_nibbles]

theorem encodeRR_eq_nibbles {bits : Word} (hb : bits = wordOfNibbles (leadingNibble bits) 0 0 (lastNibble bits))
    (x y : Register) :
    encodeRR bits x y = wordOfNibbles (leadingNibble bits) x.index y.index (lastNibble bits) := by
  conv_lhs => rw [hb, encodeRR_nibbles]

theorem encodeR_eq_nibbles {bits : Word}
    (hb : bits = wordOfNibbles (leadingNibble bits) 0 (thirdNibble bits) (lastNibble bits)) (x : Register) :
    encodeR bits x = wordOfNibbles (leadingNibble bits) x.index (thirdNibble bits) (lastNibble bits) := by
  conv_lhs => rw [hb, encodeR_nibbles]

/-- In each format the operands are the fields of the word, and the leading nibble, with the fixed nibbles after the
operands, finds the arm. -/
theorem decode_encode (i : Instr) : decode (encode i) = some i := by
  cases i with
  | clearDisplay | ret => decide
  | jump a | call a | loadAddressConstant a | jumpWithOffset a =>
    obtain ⟨a⟩ := a
    obtain ⟨x, y, n, rfl⟩ := exists_address_nibbles a
    rw [encode, encodeA_eq_nibbles (by decide), decode_nibbles (by decide)]
    simp only [decodeDispatch, leadingNibble_nibbles, operandNNN_nibbles]
    rfl
  | skipEqualConstant r c | skipNotEqualConstant r c | loadConstant r c | addConstant r c | rand r c =>
    obtain ⟨c⟩ := c
    obtain ⟨y, n, rfl⟩ := exists_byte_nibbles c
    rw [encode, encodeRC_eq_nibbles (by decide), decode_nibbles (by decide)]
    simp only [decodeDispatch, leadingNibble_nibbles, operandX_nibbles, operandNN_nibbles]
    rfl
  | draw x y n =>
    rw [encode, encodeRRN_eq_nibbles (by decide), decode_nibbles (by decide)]
    simp only [decodeDispatch, leadingNibble_nibbles, operandX_nibbles, operandY_nibbles, operandN_nibbles]
    rfl
  | skipEqualRegister x y | skipNotEqualRegister x y | copy x y | or x y | and x y | xor x y | add x y | sub x y
  | shiftRight x y | minusSub x y | shiftLeft x y =>
    rw [encode, encodeRR_eq_nibbles (by decide), decode_nibbles (by decide)]
    simp only [decodeDispatch, leadingNibble_nibbles, operandX_nibbles, operandY_nibbles, lastNibble_nibbles]
    rfl
  | skipKeyEqual r | skipKeyNotEqual r | loadDelayTimer r | waitKey r | storeDelayTimer r | storeBeepTimer r
  | addAddress r | loadSpriteAddress r | storeBCD r | contextStore r | contextLoad r =>
    rw [encode, encodeR_eq_nibbles (by decide), decode_nibbles (by decide)]
    simp only [decodeDispatch, leadingNibble_nibbles, operandX_nibbles, lastByte_nibbles]
    rfl

/-- Settles O2: an encoded word has the operands in its fields, and a decoded word is its operands and its fixed bits;
with one word per operation, decode is injective. -/
theorem decodeAndEncodeAreInverse : Obligations.DecodeAndEncodeAreInverse :=
  ⟨decode_encode, fun _ _ => encode_of_decode,
    fun _ _ _ h h' => (encode_of_decode h).symm.trans (encode_of_decode h')⟩

/-! ## The opcode table (R56, R57) -/

theorem rowSelects_iff (r : OpcodeRow) (w : Word) : rowSelects r w = true ↔ w &&& r.mask = r.bits := beq_iff_eq

theorem mem_opcodeTable_of_rowOf {i : Instr} {r : OpcodeRow} (h : rowOf i = some r) : r ∈ opcodeTable :=
  List.mem_of_getElem? h

/-- The row of an operation's variant selects the operation's word. -/
theorem rowOf_selects_encode : ∀ i : Instr, ∃ r, rowOf i = some r ∧ rowSelects r (encode i) = true
  | .clearDisplay => Laws.FitsRow.clearDisplay
  | .ret => Laws.FitsRow.ret
  | .jump a => Laws.FitsRow.jump a
  | .call a => Laws.FitsRow.call a
  | .skipEqualConstant r c => Laws.FitsRow.skipEqualConstant r c
  | .skipNotEqualConstant r c => Laws.FitsRow.skipNotEqualConstant r c
  | .skipEqualRegister x y => Laws.FitsRow.skipEqualRegister x y
  | .loadConstant r c => Laws.FitsRow.loadConstant r c
  | .addConstant r c => Laws.FitsRow.addConstant r c
  | .copy x y => Laws.FitsRow.copy x y
  | .or x y => Laws.FitsRow.or x y
  | .and x y => Laws.FitsRow.and x y
  | .xor x y => Laws.FitsRow.xor x y
  | .add x y => Laws.FitsRow.add x y
  | .sub x y => Laws.FitsRow.sub x y
  | .shiftRight x y => Laws.FitsRow.shiftRight x y
  | .minusSub x y => Laws.FitsRow.minusSub x y
  | .shiftLeft x y => Laws.FitsRow.shiftLeft x y
  | .skipNotEqualRegister x y => Laws.FitsRow.skipNotEqualRegister x y
  | .loadAddressConstant a => Laws.FitsRow.loadAddressConstant a
  | .jumpWithOffset a => Laws.FitsRow.jumpWithOffset a
  | .rand r c => Laws.FitsRow.rand r c
  | .draw x y n => Laws.FitsRow.draw x y n
  | .skipKeyEqual r => Laws.FitsRow.skipKeyEqual r
  | .skipKeyNotEqual r => Laws.FitsRow.skipKeyNotEqual r
  | .loadDelayTimer r => Laws.FitsRow.loadDelayTimer r
  | .waitKey r => Laws.FitsRow.waitKey r
  | .storeDelayTimer r => Laws.FitsRow.storeDelayTimer r
  | .storeBeepTimer r => Laws.FitsRow.storeBeepTimer r
  | .addAddress r => Laws.FitsRow.addAddress r
  | .loadSpriteAddress r => Laws.FitsRow.loadSpriteAddress r
  | .storeBCD r => Laws.FitsRow.storeBCD r
  | .contextStore r => Laws.FitsRow.contextStore r
  | .contextLoad r => Laws.FitsRow.contextLoad r
/-- A word that matches the row is the word of the row's variant applied to the fields of the word (R56, R79). The class
code names the variant, and so the operation that each row below gives. -/
def RowRecovers (r : OpcodeRow) : Prop :=
  ∀ w, w &&& r.mask = r.bits → ∃ i,
    variantOfClass r.classCode (operandX w) (operandY w) (operandN w) (operandNN w) (operandNNN w) = some i ∧
      rowOf i = some r ∧ encode i = w

theorem eq_of_and_FFFF {w bits : Word} (h : w &&& 0xFFFF#16 = bits) : bits = w :=
  h.symm.trans BitVec.and_allOnes

theorem opcodeRowsLow_recover : ∀ r ∈ opcodeRowsLow, RowRecovers r := by
  simp only [opcodeRowsLow, List.forall_mem_cons]
  refine ⟨?clearDisplay, ?ret, ?jump, ?call, ?skipEqualConstant, ?skipNotEqualConstant, ?skipEqualRegister,
    ?loadConstant, ?addConstant, by simp⟩
  case clearDisplay | ret => exact fun w h => ⟨_, rfl, rfl, eq_of_and_FFFF h⟩
  case jump | call => exact fun w h => ⟨_, rfl, rfl, encodeA_operands h⟩
  case skipEqualRegister => exact fun w h => ⟨_, rfl, rfl, encodeRR_operands h⟩
  case skipEqualConstant | skipNotEqualConstant | loadConstant | addConstant =>
    exact fun w h => ⟨_, rfl, rfl, encodeRC_operands h⟩

theorem opcodeRowsAlu_recover : ∀ r ∈ opcodeRowsAlu, RowRecovers r := by
  simp only [opcodeRowsAlu, List.forall_mem_cons]
  refine ⟨?_, ?_, ?_, ?_, ?_, ?_, ?_, ?_, ?_, by simp⟩ <;>
    exact fun w h => ⟨_, rfl, rfl, encodeRR_operands h⟩

theorem opcodeRowsHigh_recover : ∀ r ∈ opcodeRowsHigh, RowRecovers r := by
  simp only [opcodeRowsHigh, List.forall_mem_cons]
  refine ⟨?skipNotEqualRegister, ?loadAddressConstant, ?jumpWithOffset, ?rand, ?draw, ?_, ?_, ?_, ?_, ?_, ?_, ?_, ?_,
    ?_, ?_, ?_, by simp⟩
  case skipNotEqualRegister => exact fun w h => ⟨_, rfl, rfl, encodeRR_operands h⟩
  case loadAddressConstant | jumpWithOffset => exact fun w h => ⟨_, rfl, rfl, encodeA_operands h⟩
  case rand => exact fun w h => ⟨_, rfl, rfl, encodeRC_operands h⟩
  case draw => exact fun w h => ⟨_, rfl, rfl, encodeRRN_operands h⟩
  all_goals exact fun w h => ⟨_, rfl, rfl, encodeR_operands h⟩

theorem opcodeTable_recovers {r : OpcodeRow} (hr : r ∈ opcodeTable) : RowRecovers r := by
  simp only [opcodeTable, List.mem_append] at hr
  rcases hr with (hr | hr) | hr
  · exact opcodeRowsLow_recover r hr
  · exact opcodeRowsAlu_recover r hr
  · exact opcodeRowsHigh_recover r hr

/-- A row selects the words that decode to its variant, and no others (R56, R70). -/
theorem rowSelects_iff_decode {r : OpcodeRow} (hr : r ∈ opcodeTable) (w : Word) :
    rowSelects r w = true ↔ ∃ i, decode w = some i ∧ rowOf i = some r := by
  constructor
  · intro h
    obtain ⟨i, _, hrow, hw⟩ := opcodeTable_recovers hr w ((rowSelects_iff r w).1 h)
    exact ⟨i, hw ▸ decode_encode i, hrow⟩
  · rintro ⟨i, hdec, hrow⟩
    obtain ⟨q, hq, hsel⟩ := rowOf_selects_encode i
    obtain rfl : q = r := Option.some.inj (hq.symm.trans hrow)
    rwa [encode_of_decode hdec] at hsel

/-- The rows are disjoint, since a word decodes to one operation and an operation has one row (R57). -/
theorem row_eq_of_selects {r q : OpcodeRow} (hr : r ∈ opcodeTable) (hq : q ∈ opcodeTable) {w : Word}
    (hrw : rowSelects r w = true) (hqw : rowSelects q w = true) : r = q := by
  obtain ⟨i, hi, hri⟩ := (rowSelects_iff_decode hr w).1 hrw
  obtain ⟨j, hj, hqj⟩ := (rowSelects_iff_decode hq w).1 hqw
  obtain rfl : i = j := Option.some.inj (hi.symm.trans hj)
  exact Option.some.inj (hri.symm.trans hqj)

/-- The invalid words are those no row selects (R58). -/
theorem decode_eq_none_iff (w : Word) : decode w = none ↔ ∀ r, r ∈ opcodeTable → rowSelects r w = false := by
  constructor
  · intro h r hr
    by_contra hsel
    obtain ⟨i, hi, _⟩ := (rowSelects_iff_decode hr w).1 (Bool.eq_true_of_not_eq_false hsel)
    rw [h] at hi; cases hi
  · intro h
    by_contra hne
    obtain ⟨i, hi⟩ := Option.ne_none_iff_exists'.1 hne
    obtain ⟨r, hr, hsel⟩ := rowOf_selects_encode i
    rw [encode_of_decode hi, h r (mem_opcodeTable_of_rowOf hr)] at hsel
    cases hsel

/-- Settles O5: a row recovers the operation of each word it matches, and an encoded operation matches its row. -/
theorem opcodeRowsAreDisjointAndSelectTheVariant : Obligations.OpcodeRowsAreDisjointAndSelectTheVariant :=
  ⟨fun _ _ hr hq _ => row_eq_of_selects hr hq, fun _ => rowSelects_iff_decode, decode_eq_none_iff⟩

/-! ## The document's words (spec/95) -/

/-- Settles O1: the decoder evaluates to the stated answer on each of the words. -/
theorem documentedWordsDecode : Obligations.DocumentedWordsDecode := by
  unfold Obligations.DocumentedWordsDecode
  decide

/-! ## Counting the valid words (R59, R60) -/

theorem countP_range_mem {m : Nat} {ends : List Nat} (hd : ends.Nodup) (hlt : ∀ e ∈ ends, e < m) :
    (List.range m).countP (· ∈ ends) = ends.length := by
  have hperm : (List.range m).filter (· ∈ ends) |>.Perm ends :=
    (List.perm_ext_iff_of_nodup (List.nodup_range.filter _) hd).2 fun e => by
      simpa using hlt e
  rw [List.countP_eq_length_filter, hperm.length_eq]

/-- A property of the remainder modulo `m`, counted over `q` runs of `m` numbers. -/
theorem countP_range_mod (p : Nat → Bool) (q m : Nat) :
    (List.range (q * m)).countP (fun k => p (k % m)) = q * (List.range m).countP p := by
  induction q with
  | zero => simp
  | succ q ih =>
    have hlast : (List.range m).countP ((fun k => p (k % m)) ∘ (q * m + ·)) = (List.range m).countP p :=
      List.countP_congr fun j hj => by
        rw [Function.comp_apply, Nat.mul_add_mod', Nat.mod_eq_of_lt (List.mem_range.1 hj)]
    rw [Nat.succ_mul, List.range_add, List.countP_append, List.countP_map, hlast, ih, Nat.succ_mul]

/-- Where it is decided whether a word of leading nibble `f` is valid: in its low twelve bits, its last nibble, its last
byte, or nowhere, since every word is. -/
def endingModulus (f : BitVec 4) : Nat :=
  match f with
  | 0x0#4 => 4096
  | 0x5#4 => 16
  | 0x8#4 => 16
  | 0x9#4 => 16
  | 0xE#4 => 256
  | 0xF#4 => 256
  | _ => 1

/-- The valid words of leading nibble `f`, by their numbers modulo `endingModulus f`. -/
def validEndings (f : BitVec 4) : List Nat :=
  match f with
  | 0x0#4 => [0x0E0, 0x0EE]
  | 0x8#4 => [0x0, 0x1, 0x2, 0x3, 0x4, 0x5, 0x6, 0x7, 0xE]
  | 0xE#4 => [0x9E, 0xA1]
  | 0xF#4 => [0x07, 0x0A, 0x15, 0x18, 0x1E, 0x29, 0x33, 0x55, 0x65]
  | _ => [0x0]

theorem decodeAlu_isSome_iff (n : BitVec 4) (x y : Register) :
    (decodeAlu n x y).isSome = true ↔ n.toNat ∈ validEndings 0x8#4 := by
  unfold decodeAlu
  split <;> simp_all [validEndings, ← BitVec.toNat_inj]

theorem decodeKey_isSome_iff (kk : Byte) (x : Register) :
    (decodeKey kk x).isSome = true ↔ kk.toNat ∈ validEndings 0xE#4 := by
  unfold decodeKey
  split <;> simp_all [validEndings, ← BitVec.toNat_inj]

theorem decodeMisc_isSome_iff (kk : Byte) (x : Register) :
    (decodeMisc kk x).isSome = true ↔ kk.toNat ∈ validEndings 0xF#4 := by
  unfold decodeMisc
  split <;> simp_all [validEndings, ← BitVec.toNat_inj]

theorem decodeDispatch_eq_none {w : Word} (hf : leadingNibble w = 0#4) : decodeDispatch w = none := by
  rw [decodeDispatch, hf]
  rfl

theorem decode_eq_dispatch {w : Word} (hf : leadingNibble w ≠ 0#4) : decode w = decodeDispatch w := by
  rw [word_eq_nibbles w, decode_nibbles hf]

/-- Of the words with leading nibble 0 the two whole words are valid (R60). -/
theorem decode_isSome_iff_of_leading_zero {w : Word} (hf : leadingNibble w = 0#4) :
    (decode w).isSome = true ↔ w.toNat % 4096 ∈ validEndings 0x0#4 := by
  have hlow : w.toNat % 4096 = w.toNat := by
    have hlead := leadingNibble_toNat w
    rw [hf, BitVec.toNat_ofNat] at hlead
    omega
  have hwhole : (decode w).isSome = true ↔ w = 0x00E0#16 ∨ w = 0x00EE#16 := by
    rw [decode, decodeDispatch_eq_none hf]
    split
    · simp_all
    · split <;> simp_all
  rw [hlow, hwhole, ← BitVec.toNat_inj, ← BitVec.toNat_inj]
  simp [validEndings]

theorem lastNibble_eq_zero_iff (w : Word) : lastNibble w = 0 ↔ w.toNat % 16 ∈ [0x0] := by
  rw [← BitVec.toNat_inj, lastNibble_toNat, List.mem_singleton]
  rfl

/-- A word is valid when its ending is one of those of its leading nibble (R59); the arms are those of
`encode_of_decodeDispatch`. -/
theorem decode_isSome_iff (w : Word) :
    (decode w).isSome = true ↔ w.toNat % endingModulus (leadingNibble w) ∈ validEndings (leadingNibble w) := by
  by_cases hz : leadingNibble w = 0#4
  · rw [hz]
    exact decode_isSome_iff_of_leading_zero hz
  rw [decode_eq_dispatch hz, decodeDispatch]
  split
  case h_5 hf | h_9 hf =>
    rw [hf, Option.isSome_ite]
    exact lastNibble_eq_zero_iff w
  case h_8 hf =>
    rw [hf, decodeAlu_isSome_iff, lastNibble_toNat]
    rfl
  case h_14 hf =>
    rw [hf, decodeKey_isSome_iff, lastByte_toNat]
    rfl
  case h_15 hf =>
    rw [hf, decodeMisc_isSome_iff, lastByte_toNat]
    rfl
  case h_16 =>
    exfalso
    generalize leadingNibble w = f at *
    revert f
    decide
  all_goals simp_all [endingModulus, validEndings, Nat.mod_one]

theorem toNat_ofNat_leading {f : BitVec 4} {k : Nat} (hk : k < 4096) :
    (BitVec.ofNat 16 (4096 * f.toNat + k)).toNat = 4096 * f.toNat + k :=
  toNat_ofNat_of_lt (by have hf := f.isLt; omega)

theorem leadingNibble_ofNat {f : BitVec 4} {k : Nat} (hk : k < 4096) :
    leadingNibble (BitVec.ofNat 16 (4096 * f.toNat + k)) = f := by
  apply BitVec.eq_of_toNat_eq
  rw [leadingNibble_toNat, toNat_ofNat_leading hk]
  omega

theorem validEndings_nodup_lt (f : BitVec 4) :
    (validEndings f).Nodup ∧ ∀ e ∈ validEndings f, e < endingModulus f := by
  revert f
  decide

theorem endingModulus_dvd (f : BitVec 4) : endingModulus f ∣ 4096 := by
  revert f
  decide

/-- Each valid ending of a leading nibble stands for as many words as the modulus goes into 4096. -/
theorem countP_valid (f : BitVec 4) :
    ((List.range 4096).countP fun k => (decode (BitVec.ofNat 16 (4096 * f.toNat + k))).isSome) =
      4096 / endingModulus f * (validEndings f).length := by
  have hvalid : ∀ k ∈ List.range 4096, (decode (BitVec.ofNat 16 (4096 * f.toNat + k))).isSome = true ↔
      decide (k % endingModulus f ∈ validEndings f) = true := by
    intro k hk
    have hk := List.mem_range.1 hk
    obtain ⟨c, hc⟩ := endingModulus_dvd f
    have hmod : (4096 * f.toNat + k) % endingModulus f = k % endingModulus f := by
      conv_lhs => rw [hc, Nat.mul_assoc, Nat.mul_add_mod]
    rw [decode_isSome_iff, leadingNibble_ofNat hk, toNat_ofNat_leading hk, hmod, decide_eq_true_iff]
  obtain ⟨hd, hlt⟩ := validEndings_nodup_lt f
  rw [List.countP_congr hvalid, ← countP_range_mem hd hlt, ← countP_range_mod,
    Nat.div_mul_cancel (endingModulus_dvd f)]

/-- Settles O4: by `countP_valid`, each count is a product read off the endings of the leading nibble. -/
theorem validWordCountsPerLeadingNibble : Obligations.ValidWordCountsPerLeadingNibble := by
  unfold Obligations.ValidWordCountsPerLeadingNibble
  have hcount : ∀ a ∈ List.range 16,
      ((List.range 4096).countP fun k => (decode (BitVec.ofNat 16 (4096 * a + k))).isSome) =
        4096 / endingModulus (BitVec.ofNat 4 a) * (validEndings (BitVec.ofNat 4 a)).length := by
    intro a ha
    have ha : (BitVec.ofNat 4 a).toNat = a := toNat_ofNat_of_lt (List.mem_range.1 ha)
    rw [← countP_valid, ha]
  rw [List.map_congr_left hcount]
  rfl

end Sys2Proof.Machine

/-! # The dispatch table and the port-level block (spec/40 R71 to R76, R79) -/

namespace Sys2Proof.Machine

/-! ## The sub-dispatches as tables (R74 to R76) -/

theorem decodeAlu_eq_ite (n : BitVec 4) (x y : Register) :
    decodeAlu n x y =
      if n = 0x0 then some (.copy x y) else if n = 0x1 then some (.or x y)
      else if n = 0x2 then some (.and x y) else if n = 0x3 then some (.xor x y)
      else if n = 0x4 then some (.add x y) else if n = 0x5 then some (.sub x y)
      else if n = 0x6 then some (.shiftRight x y) else if n = 0x7 then some (.minusSub x y)
      else if n = 0xE then some (.shiftLeft x y) else none := by
  unfold decodeAlu
  split <;> simp_all

theorem decodeKey_eq_ite (kk : Byte) (x : Register) :
    decodeKey kk x =
      if kk = 0x9E#8 then some (.skipKeyEqual x) else if kk = 0xA1#8 then some (.skipKeyNotEqual x) else none := by
  unfold decodeKey
  split <;> simp_all

theorem decodeMisc_eq_ite (kk : Byte) (x : Register) :
    decodeMisc kk x =
      if kk = 0x07#8 then some (.loadDelayTimer x) else if kk = 0x0A#8 then some (.waitKey x)
      else if kk = 0x15#8 then some (.storeDelayTimer x) else if kk = 0x18#8 then some (.storeBeepTimer x)
      else if kk = 0x1E#8 then some (.addAddress x) else if kk = 0x29#8 then some (.loadSpriteAddress x)
      else if kk = 0x33#8 then some (.storeBCD x) else if kk = 0x55#8 then some (.contextStore x)
      else if kk = 0x65#8 then some (.contextLoad x) else none := by
  unfold decodeMisc
  split <;> simp_all

/-! ## The dispatch on the leading nibble (R71 to R73) -/

theorem append_eq_nibbles (a x y n : BitVec 4) : (a ++ x ++ y ++ n : Word) = wordOfNibbles a x y n := rfl

/-- Settles O3: leading nibble 0 is the test for the two whole words; the others are arms of the dispatch, whose
operands are the fields of the word. -/
theorem decodeFollowsTheDispatchTable : Obligations.DecodeFollowsTheDispatchTable := by
  intro x y n
  simp only [append_eq_nibbles]
  refine ⟨decode_nibbles_zero x y n, ?_, ?_, ?_, ?_, ?_, ?_, ?_, ?alu, ?_, ?_, ?_, ?_, ?_, ?key, ?misc⟩
  all_goals
    rw [decode_nibbles (by decide)]
    simp only [decodeDispatch, leadingNibble_nibbles, operandX_nibbles, operandY_nibbles, operandN_nibbles,
      operandNN_nibbles, operandNNN_nibbles, lastNibble_nibbles, lastByte_nibbles]
  case alu => exact decodeAlu_eq_ite n ⟨x⟩ ⟨y⟩
  case key => exact decodeKey_eq_ite (y ++ n) ⟨x⟩
  case misc => exact decodeMisc_eq_ite (y ++ n) ⟨x⟩

/-! ## The block's outputs (R79, R84) -/

/-- The rows of the opcode table stand in the order of their class codes. -/
theorem classCode_of_rowOf {i : Instr} {r : OpcodeRow} (h : rowOf i = some r) : r.classCode = i.classCode := by
  have hnumbered : ∀ k < 34, opcodeTable[k]?.map OpcodeRow.classCode = some k := by decide
  have hcode := hnumbered i.classCode (classCode_lt i)
  rw [← rowOf, h] at hcode
  exact Option.some.inj hcode

/-- The row of a valid word's operation selects the word and recovers the operation from its fields. -/
theorem exists_row_of_decode {w : Word} {i : Instr} (h : decode w = some i) :
    ∃ r ∈ opcodeTable, rowSelects r w = true ∧ rowOf i = some r ∧
      variantOfClass i.classCode (operandX w) (operandY w) (operandN w) (operandNN w) (operandNNN w) = some i := by
  obtain ⟨r, hrow, hsel⟩ := rowOf_selects_encode i
  rw [encode_of_decode h] at hsel
  have hr := mem_opcodeTable_of_rowOf hrow
  obtain ⟨j, hvariant, _, hj⟩ := opcodeTable_recovers hr w ((rowSelects_iff r w).1 hsel)
  obtain rfl : j = i := Option.some.inj (by rw [← decode_encode, hj, h])
  exact ⟨r, hr, hsel, hrow, classCode_of_rowOf hrow ▸ hvariant⟩

/-- By disjointness the first row that selects a valid word is the row of its operation (R57). -/
theorem classOfWord_of_decode {w : Word} {i : Instr} (h : decode w = some i) : classOfWord w = i.classCode := by
  obtain ⟨r, hr, hsel, hrow, _⟩ := exists_row_of_decode h
  have hfound : opcodeTable.find? (rowSelects · w) = some r := by
    have hsome : (opcodeTable.find? (rowSelects · w)).isSome = true := List.find?_isSome.2 ⟨r, hr, hsel⟩
    obtain ⟨q, hq⟩ := Option.isSome_iff_exists.1 hsome
    have hqsel : rowSelects q w = true := List.find?_some (p := (rowSelects · w)) hq
    rw [hq, row_eq_of_selects (List.mem_of_find?_eq_some hq) hr hqsel hsel]
  rw [classOfWord, hfound]
  exact classCode_of_rowOf hrow

theorem classOfWord_of_decode_none {w : Word} (h : decode w = none) : classOfWord w = 63 := by
  have hnone : opcodeTable.find? (rowSelects · w) = none := by
    simpa using (decode_eq_none_iff w).1 h
  rw [classOfWord, hnone]

theorem decoderBlock_valid_of_decode {w : Word} {i : Instr} (h : decode w = some i) :
    (decoderBlock w).valid = 1 := by
  obtain ⟨r, hr, hsel, _⟩ := exists_row_of_decode h
  exact if_pos (List.any_eq_true.2 ⟨r, hr, hsel⟩)

theorem decoderBlock_valid_of_decode_none {w : Word} (h : decode w = none) : (decoderBlock w).valid = 0 := by
  refine if_neg ?_
  simpa using (decode_eq_none_iff w).1 h

/-- Six bits hold the class code of every operation. -/
theorem decoderBlock_cls_of_decode {w : Word} {i : Instr} (h : decode w = some i) :
    (decoderBlock w).cls.toNat = i.classCode := by
  have hlt := classCode_lt i
  rw [decoderBlock, classOfWord_of_decode h]
  exact toNat_ofNat_of_lt (by omega)

theorem decoderBlock_cls_of_decode_none {w : Word} (h : decode w = none) : (decoderBlock w).cls.toNat = 63 := by
  rw [decoderBlock, classOfWord_of_decode_none h]
  rfl

theorem instrOfPorts_of_decode {w : Word} {i : Instr} (h : decode w = some i) :
    instrOfPorts (decoderBlock w) = some i := by
  obtain ⟨_, _, _, _, hvariant⟩ := exists_row_of_decode h
  rw [instrOfPorts, decoderBlock_valid_of_decode h, if_neg (by decide), decoderBlock_cls_of_decode h]
  exact hvariant

theorem instrOfPorts_of_decode_none {w : Word} (h : decode w = none) : instrOfPorts (decoderBlock w) = none := by
  rw [instrOfPorts, decoderBlock_valid_of_decode_none h]
  rfl

/-- The five fields are wired for every word, valid or not (R79). -/
theorem decoderBlock_fields (w : Word) :
    (decoderBlock w).x.toNat = w.toNat / 256 % 16 ∧ (decoderBlock w).y.toNat = w.toNat / 16 % 16 ∧
      (decoderBlock w).n.toNat = w.toNat % 16 ∧ (decoderBlock w).kk.toNat = w.toNat % 256 ∧
      (decoderBlock w).nnn.toNat = w.toNat % 4096 :=
  ⟨secondNibble_toNat w, thirdNibble_toNat w, lastNibble_toNat w, lastByte_toNat w, addressField_toNat w⟩

/-- Settles O6: by whether the word is valid; a valid word is selected by the row of its operation, an invalid one by
none. -/
theorem decoderBlockRealisesDecode : Obligations.DecoderBlockRealisesDecode := by
  intro w
  obtain ⟨hx, hy, hn, hkk, hnnn⟩ := decoderBlock_fields w
  cases h : decode w with
  | none =>
    exact ⟨decoderBlock_valid_of_decode_none h, decoderBlock_cls_of_decode_none h, hx, hy, hn, hkk, hnnn,
      instrOfPorts_of_decode_none h⟩
  | some i =>
    exact ⟨decoderBlock_valid_of_decode h, decoderBlock_cls_of_decode h, hx, hy, hn, hkk, hnnn,
      instrOfPorts_of_decode h⟩

end Sys2Proof.Machine

/-! # The step: fetch, turns, ticks, final states, and the pc after an instruction (spec/41 R91 to R99)

What the fetch answers for the word at pc; whose turn a step is and what each turn keeps; how the schedule of the ticks
moves, which gives their weak fairness; and where each instruction leaves the pc. -/

namespace Sys2Proof.Machine

/-! ## The word at pc (R91, R92, R94) -/

theorem eq_wordOfBytes_iff (w : Word) (hi lo : Byte) :
    w = wordOfBytes hi lo ↔ w.toNat = hi.toNat * 256 + lo.toNat := by
  rw [← BitVec.toNat_inj, wordOfBytes_toNat, Nat.mul_comm]

/-- Inside the program range the fetch answers the word whose number the two bytes at pc give. -/
theorem fetch_eq_ok {s : State} {w : Word} (hlow : 0x200 ≤ s.pc.toNat) (hhigh : s.pc.toNat ≤ 0xFFE)
    (hw : w.toNat = (s.mem.read s.pc.toNat).toNat * 256 + (s.mem.read (s.pc.toNat + 1)).toNat) :
    fetch s = .ok w := by
  rw [(eq_wordOfBytes_iff w _ _).2 hw]
  exact fetch_ok ((fetchable_iff s.pc).2 ⟨hlow, hhigh⟩)

theorem fetchable_eq_false_iff (pc : Word) : fetchable pc = false ↔ pc.toNat < 0x200 ∨ 0xFFE < pc.toNat := by
  rw [← Bool.not_eq_true, fetchable_iff]
  omega

theorem fetchInstr_of_decode {s : State} {w : Word} {i : Instr} (hf : fetch s = .ok w) (hd : decode w = some i) :
    fetchInstr s = .ok i := by
  simp [fetchInstr, hf, hd]

theorem fetchInstr_of_decode_none {s : State} {w : Word} (hf : fetch s = .ok w) (hd : decode w = none) :
    fetchInstr s = .error (.invalidOpcode s.pc w) := by
  simp [fetchInstr, hf, hd]

theorem fetchInstr_of_fetch_error {s : State} {f : Fault} (hf : fetch s = .error f) : fetchInstr s = .error f := by
  simp [fetchInstr, hf]

theorem coreStep_of_fetchInstr {s : State} {i : Instr} (h : fetchInstr s = .ok i) : coreStep s = exec i s := by
  rw [coreStep, h]

theorem coreStep_of_fetchInstr_error {s : State} {f : Fault} (h : fetchInstr s = .error f) :
    coreStep s = .fault f := by
  rw [coreStep, h]
  rfl

/-- Settles O16: `fetch` by whether the pc is in the program range; the range test does not look at memory. -/
theorem fetchOnlyInsideTheProgramRange : Obligations.FetchOnlyInsideTheProgramRange := by
  refine ⟨fun s hlow hhigh => ?_, fun s hout => ?_⟩
  · exact ⟨_, fetch_ok ((fetchable_iff s.pc).2 ⟨hlow, hhigh⟩), (eq_wordOfBytes_iff _ _ _).1 rfl⟩
  · have hpc := (fetchable_eq_false_iff s.pc).2 hout
    exact ⟨fun m => fetch_outOfRange (s := { s with mem := m }) hpc,
      coreStep_of_fetchInstr_error (fetchInstr_of_fetch_error (fetch_outOfRange hpc))⟩

/-- Settles O17: the fetch succeeds and the decoder refuses the word. -/
theorem invalidWordFaults : Obligations.InvalidWordFaults :=
  fun _ _ hlow hhigh hw hd =>
    coreStep_of_fetchInstr_error (fetchInstr_of_decode_none (fetch_eq_ok hlow hhigh hw) hd)

/-! ## Whose turn a step is (R98) -/

theorem step_of_tickDue {s : State} (h : tickDue s = true) : step s = .next (tickTurn s) := if_pos h

theorem step_of_not_tickDue {s : State} (h : tickDue s = false) : step s = coreStep (coreTurn s) := by
  rw [step, h, if_neg Bool.false_ne_true]

@[simp] theorem fetchInstr_coreTurn (s : State) : fetchInstr (coreTurn s) = fetchInstr s :=
  fetchInstr_congr (coreTurn_mem s) (coreTurn_pc s)

@[simp] theorem fetchInstr_tickTurn (s : State) : fetchInstr (tickTurn s) = fetchInstr s :=
  fetchInstr_congr (tickTurn_mem s) (tickTurn_pc s)

/-- On its turn the core runs the instruction at pc, the schedule moved on (R92). -/
theorem step_of_fetchInstr {s : State} {i : Instr} (ht : tickDue s = false) (hf : fetchInstr s = .ok i) :
    step s = exec i (coreTurn s) := by
  rw [step_of_not_tickDue ht]
  exact coreStep_of_fetchInstr (by rw [fetchInstr_coreTurn, hf])

/-- Settles O19: by whose turn it is; with both timers at 0 it is the core's, by `timersOff`. -/
theorem stepRunsTheDecodedInstruction : Obligations.StepRunsTheDecodedInstruction := by
  intro s w i hlow hhigh hw hd
  have hf : fetchInstr s = .ok i := fetchInstr_of_decode (fetch_eq_ok hlow hhigh hw) hd
  refine ⟨coreStep_of_fetchInstr hf, ?_, fun hdt hst => ?_⟩
  · cases ht : tickDue s with
    | true => exact step_of_tickDue ht
    | false => exact step_of_fetchInstr ht hf
  · obtain ⟨_, hnotDue, hturn⟩ := timersOff hdt hst
    have hstep : step s = exec i { s with untilTick := none } := by rw [step_of_fetchInstr hnotDue hf, hturn]
    exact ⟨hstep, fun hopen => by rw [hstep, ← hopen]⟩

/-! ## What a turn keeps (R97, R98) -/

section TurnFrame

variable {parts : List StatePart} {s t : State}

/-- A tick writes the two timers only. -/
@[simp] theorem changesOnly_tick (hdt : .dt ∈ parts) (hst : .st ∈ parts) :
    changesOnly parts s (tick t) ↔ changesOnly parts s t := by
  show changesOnly parts s ((t.setDT (tickTimer t.dt)).setST (tickTimer t.st)) ↔ _
  rw [changesOnly_setST hst, changesOnly_setDT hdt]

@[simp] theorem changesOnly_tickTimes (hdt : .dt ∈ parts) (hst : .st ∈ parts) (n : Nat) :
    changesOnly parts s (tickTimes n t) ↔ changesOnly parts s t := by
  induction n generalizing t with
  | zero => rfl
  | succ n ih => rw [tickTimes, ih, changesOnly_tick hdt hst]

@[simp] theorem changesOnly_giveCoreTurn (h : .untilTick ∈ parts) :
    changesOnly parts s (giveCoreTurn t) ↔ changesOnly parts s t :=
  changesOnly_update h

end TurnFrame

theorem tickTurn_changesOnly (s : State) : changesOnly [.dt, .st, .asked, .untilTick] s (tickTurn s) := by
  intro p hp
  cases p <;> simp_all [samePart]

theorem coreTurn_changesOnly (s : State) : changesOnly [.asked, .untilTick] s (coreTurn s) := by
  intro p hp
  cases p <;> simp_all [samePart]

theorem changesOnly_mono {parts parts' : List StatePart} (hsub : parts ⊆ parts') {s t : State}
    (h : changesOnly parts s t) : changesOnly parts' s t :=
  fun p hp => h p fun hmem => hp (hsub hmem)

/-! ## When an instruction faults (R101, R105, R163, R183 to R187) -/

theorem withBounds_fault_iff (base n : Nat) (t : State) (f : Fault) :
    withBounds base n (.next t) = .fault f ↔
      n ≠ 0 ∧ 4096 < base + n ∧ f = .memoryOutOfBounds (max base 0x1000) := by
  rcases withBounds_cases base n (.next t) with ⟨hb, he⟩ | ⟨h0, hb, he⟩ <;> rw [he]
  · simp; omega
  · simp [h0, hb, eq_comm]

theorem ret_fault_iff (s : State) (f : Fault) :
    exec .ret s = .fault f ↔ s.sp.val = 0 ∧ f = .stackUnderflow s.pc := by
  rw [exec, execRet]
  by_cases hsp : s.sp.val = 0
  · rw [popThen_empty hsp]; simp [hsp, eq_comm]
  · rw [popThen_live hsp]; simp [hsp]

theorem call_fault_iff (a : Address) (s : State) (f : Fault) :
    exec (.call a) s = .fault f ↔ s.sp.val = 12 ∧ f = .stackOverflow s.pc := by
  rw [exec, execCall]
  by_cases hsp : s.sp.val = 12
  · rw [pushThen_full hsp]; simp [hsp, eq_comm]
  · rw [pushThen_room (by omega)]; simp [hsp]

theorem waitKey_ne_fault (r : Register) (s : State) (f : Fault) : exec (.waitKey r) s ≠ .fault f := by
  rw [exec, execWaitKey]
  cases Config.keyPresented s.asked <;> nofun

/-- Which fault an instruction raises is decided by the pc, the depth and the index register. -/
theorem exec_fault_congr (i : Instr) {s t : State} (hpc : t.pc = s.pc) (hsp : t.sp = s.sp) (hi : t.iReg = s.iReg)
    (f : Fault) : exec i t = .fault f ↔ exec i s = .fault f := by
  cases i with
  | ret => rw [ret_fault_iff, ret_fault_iff, hpc, hsp]
  | call a => rw [call_fault_iff, call_fault_iff, hpc, hsp]
  | waitKey r => exact iff_of_false (waitKey_ne_fault r t f) (waitKey_ne_fault r s f)
  | draw | storeBCD | contextStore | contextLoad =>
    simp only [exec, execDraw, drawWith, execStoreBCD, execContextStore, execContextLoad, withBounds_fault_iff, hi]
  | _ => exact iff_of_false nofun nofun

theorem coreStep_coreTurn_fault_iff (s : State) (f : Fault) :
    coreStep (coreTurn s) = .fault f ↔ coreStep s = .fault f := by
  rcases coreStep_cases s with ⟨g, hg, he⟩ | ⟨i, hi, he⟩
  · rw [he, coreStep_of_fetchInstr_error (by rw [fetchInstr_coreTurn, hg])]
  · rw [he, coreStep_of_fetchInstr (by rw [fetchInstr_coreTurn, hi])]
    exact exec_fault_congr i (coreTurn_pc s) (coreTurn_sp s) (coreTurn_iReg s) f

/-- Settles O18: the two cases of `step`, the frame of each turn, and that a fault does not depend on the schedule. -/
theorem stepIsATickOrACoreStep : Obligations.StepIsATickOrACoreStep :=
  fun s => ⟨step_of_tickDue, step_of_not_tickDue, ⟨rfl, rfl, tickTurn_changesOnly s⟩, coreTurn_changesOnly s,
    coreStep_coreTurn_fault_iff s⟩

/-! ## Placing a word (log 11) -/

/-- The state with its pc where a fetch is allowed: the entry point, unless it is there already. -/
def State.atFetch (s : State) : State := if fetchable s.pc then s else s.goto 0x200

theorem State.atFetch_of_fetchable {s : State} (h : fetchable s.pc = true) : s.atFetch = s := if_pos h

theorem State.fetchable_atFetch (s : State) : fetchable s.atFetch.pc = true := by
  unfold State.atFetch
  split
  · assumption
  · rfl

/-- `withFetchWord` stores the word at the pc of a state in which it is the core's turn. -/
theorem withFetchWord_toNat (s : State) (w : Word) :
    s.withFetchWord 16 w.toNat = storeWord (giveCoreTurn s).atFetch (giveCoreTurn s).atFetch.pc.toNat w := by
  have hbytes : tableWordBytes 16 w.toNat = [highByte w, lowByte w] := by
    rw [tableWordBytes, Nat.mod_eq_of_lt w.isLt, BitVec.ofNat_toNat, BitVec.setWidth_eq]
  rw [State.withFetchWord, hbytes, placeAtFetch, State.atFetch]
  split <;> rfl

@[simp] theorem storeWord_pc (s : State) (a : Nat) (w : Word) : (storeWord s a w).pc = s.pc := rfl

@[simp] theorem storeWord_mem (s : State) (a : Nat) (w : Word) :
    (storeWord s a w).mem = s.mem.writeBlock a [highByte w, lowByte w] := rfl

/-- The byte at the lower address is the more significant (R33). -/
theorem storeWord_read_high (s : State) (a : Nat) (w : Word) : (storeWord s a w).mem.read a = highByte w := by
  rw [storeWord_mem, Memory.read_writeBlock, if_pos (by simp), Nat.sub_self]
  rfl

theorem storeWord_read_low (s : State) (a : Nat) (w : Word) : (storeWord s a w).mem.read (a + 1) = lowByte w := by
  rw [storeWord_mem, Memory.read_writeBlock, if_pos (by simp), Nat.add_sub_cancel_left]
  rfl

theorem fetch_storeWord {s : State} (h : fetchable s.pc = true) (w : Word) :
    fetch (storeWord s s.pc.toNat w) = .ok w := by
  rw [fetch_ok (s := storeWord s s.pc.toNat w) h, storeWord_pc, storeWord_read_high, storeWord_read_low,
    wordOfBytes_split]

/-- Whose turn it is does not depend on the pc or on memory. -/
theorem tickDue_storeWord_atFetch (s : State) (a : Nat) (w : Word) :
    tickDue (storeWord s.atFetch a w) = tickDue s := by
  unfold State.atFetch
  split <;> rfl

/-- Settles O20: the placed word is the one at pc, and `giveCoreTurn` has made it the core's turn. -/
theorem placedWordIsRunNext : Obligations.PlacedWordIsRunNext := by
  intro s w i hd
  rw [withFetchWord_toNat]
  refine ⟨?_, fun hrange => ?_⟩
  · refine step_of_fetchInstr ?_ (fetchInstr_of_decode (fetch_storeWord (State.fetchable_atFetch _) w) hd)
    rw [tickDue_storeWord_atFetch, tickDue_giveCoreTurn]
  · have hat : (giveCoreTurn s).atFetch = giveCoreTurn s :=
      State.atFetch_of_fetchable (by rw [giveCoreTurn_pc]; exact (fetchable_iff s.pc).2 hrange)
    rw [hat, giveCoreTurn_pc, storeWord]
    refine ⟨?_, fun hnotDue => ?_, fun a hne hne' => ?_⟩
    · simpa using changesOnly_refl _ s
    · have hgive : giveCoreTurn s = s := if_neg (by rw [hnotDue]; exact Bool.false_ne_true)
      rw [hgive]
      simpa using changesOnly_refl _ s
    · rw [State.storeBytes_mem, giveCoreTurn_mem]
      exact Memory.read_writeBlock_outside _ _ _ _ (by simp; omega)

/-! ## Ticks (R97) -/

theorem tickTimes_timers (n : Nat) (s : State) :
    (tickTimes n s).dt.toNat = s.dt.toNat - n ∧ (tickTimes n s).st.toNat = s.st.toNat - n := by
  induction n generalizing s with
  | zero => exact ⟨rfl, rfl⟩
  | succ n ih =>
    obtain ⟨hdt, hst⟩ := ih (tick s)
    rw [tick_dt, tickTimer_toNat] at hdt
    rw [tick_st, tickTimer_toNat] at hst
    rw [tickTimes]
    omega

/-- Settles O21: a tick is `tickTimer` on each timer, and `n` ticks by induction. -/
theorem tickLowersEachTimer : Obligations.TickLowersEachTimer := by
  intro s
  refine ⟨⟨tickTimer_toNat s.dt, tickTimer_toNat s.st, ?_⟩, tick_off, fun n => ?_⟩
  · simpa using changesOnly_refl _ s
  · obtain ⟨hdt, hst⟩ := tickTimes_timers n s
    exact ⟨hdt, hst, by simpa using changesOnly_refl _ s⟩

/-! ## The schedule of the ticks (R97, R99, log 3) -/

/-- No instruction writes the number of core steps before the next tick. -/
theorem exec_untilTick {i : Instr} {s t : State} (h : exec i s = .next t) : t.untilTick = s.untilTick := by
  refine exec_changesOnly h .untilTick ?_
  cases i with
  | contextStore | contextLoad =>
    simp only [mayWrite]
    split <;> simp
  | _ => simp [mayWrite]

theorem timerRuns_of_tickDue {s : State} (h : tickDue s = true) : timerRuns s = true := by
  simp_all [tickDue]

/-- After a tick, and after a step with both timers at 0, the number is open. -/
theorem step_untilTick_open {s t : State} (h : step s = .next t) (ho : tickDue s = true ∨ timerRuns s = false) :
    t.untilTick = none := by
  rcases step_next h with ⟨_, rfl⟩ | ⟨hnotDue, _, i, _, he⟩
  · exact tickTurn_untilTick s
  · have hoff : timerRuns s = false := ho.resolve_left (by simp [hnotDue])
    obtain ⟨hdt, hst⟩ := timerRuns_eq_false.1 hoff
    obtain ⟨_, _, hturn⟩ := timersOff hdt hst
    rw [exec_untilTick he, hturn]

/-- A core step while a timer runs lowers the number by one. -/
theorem step_untilTick_running {s t : State} (h : step s = .next t) (hd : tickDue s = false)
    (hr : timerRuns s = true) : t.untilTick = some (stepsLeft s - 1) := by
  rcases step_next h with ⟨hdue, _⟩ | ⟨_, _, i, _, he⟩
  · rw [hd] at hdue; cases hdue
  · rw [exec_untilTick he, (coreTurn_running hr).1]

/-- An open number is drawn at an index that is not used again. -/
theorem step_asked_lt {s t : State} (h : step s = .next t) (hr : timerRuns s = true) (ho : s.untilTick = none) :
    s.asked < t.asked := by
  rcases step_next h with ⟨_, rfl⟩ | ⟨_, _, i, _, he⟩
  · exact Nat.lt_succ_self s.asked
  · have hturn : (coreTurn s).asked = s.asked + 1 := by rw [coreTurn_asked, if_pos ⟨hr, ho⟩]
    have hexec := (exec_ports he).asked
    omega

/-- Settles O58: by the lemmas above, one for each clause. -/
theorem theNextTickIsOpen : Obligations.TheNextTickIsOpen := by
  intro s t h
  obtain ⟨_, _, _, _, hasked⟩ := step_ports h
  exact ⟨step_untilTick_open h, step_untilTick_running h, stepsLeft_none, by omega, step_asked_lt h⟩

/-! ## Weak fairness (R97, R99) -/

/-- On a run a tick that is due is taken. -/
theorem isRun.next_of_tickDue {r : Nat → State} (hr : isRun r) {n : Nat} (h : tickDue (r n) = true) :
    r (n + 1) = tickTurn (r n) :=
  Host.Outcome.next.inj ((hr n).symm.trans (step_of_tickDue h))

/-- By induction on the core steps left: each one taken while a timer runs leaves one fewer. -/
theorem isRun.exists_tick {r : Nat → State} (hr : isRun r) {k n : Nat} (hk : stepsLeft (r n) = k) :
    ∃ m, n ≤ m ∧ m ≤ n + k ∧
      (timerRuns (r m) = false ∨ (tickDue (r m) = true ∧ r (m + 1) = tickTurn (r m))) := by
  cases hrun : timerRuns (r n) with
  | false => exact ⟨n, le_refl n, Nat.le_add_right n k, .inl hrun⟩
  | true =>
    induction k generalizing n with
    | zero =>
      have hdue : tickDue (r n) = true := by simp [tickDue, hrun, hk]
      exact ⟨n, le_refl n, le_refl n, .inr ⟨hdue, hr.next_of_tickDue hdue⟩⟩
    | succ k ih =>
      have hnotDue : tickDue (r n) = false := by simp [tickDue, hk]
      have hleft : stepsLeft (r (n + 1)) = k := by
        rw [stepsLeft_some (step_untilTick_running (hr n) hnotDue hrun), hk, Nat.add_sub_cancel]
      cases hnext : timerRuns (r (n + 1)) with
      | false => exact ⟨n + 1, by omega, by omega, .inl hnext⟩
      | true =>
        obtain ⟨m, hlow, hhigh, htick⟩ := ih hleft hnext
        exact ⟨m, by omega, by omega, htick⟩

/-- After `k` steps that were all ticks, each timer is lower by `k`. -/
theorem isRun.timers_after_ticks {r : Nat → State} (hr : isRun r) {n k : Nat}
    (h : ∀ m, n ≤ m → m < n + k → tickDue (r m) = true) :
    (r (n + k)).dt.toNat = (r n).dt.toNat - k ∧ (r (n + k)).st.toNat = (r n).st.toNat - k := by
  induction k with
  | zero => exact ⟨rfl, rfl⟩
  | succ k ih =>
    obtain ⟨hdt, hst⟩ := ih fun m hlow hhigh => h m hlow (by omega)
    have htick : r (n + (k + 1)) = tickTurn (r (n + k)) := hr.next_of_tickDue (h (n + k) (by omega) (by omega))
    rw [htick, tickTurn_dt, tickTurn_st, tickTimer_toNat, tickTimer_toNat]
    omega

/-- 255 ticks in a row bring both timers to 0, where no tick is due. -/
theorem isRun.exists_core {r : Nat → State} (hr : isRun r) (n : Nat) :
    ∃ m, n ≤ m ∧ m ≤ n + 255 ∧ tickDue (r m) = false := by
  by_contra hnone
  have hdue : ∀ m, n ≤ m → m ≤ n + 255 → tickDue (r m) = true := fun m hlow hhigh => by
    by_contra hm
    exact hnone ⟨m, hlow, hhigh, Bool.eq_false_of_not_eq_true hm⟩
  obtain ⟨hdt, hst⟩ := hr.timers_after_ticks (k := 255) fun m hlow hhigh => hdue m hlow (by omega)
  have hoff : timerRuns (r (n + 255)) = false := timerRuns_eq_false.2 ⟨by bv_omega, by bv_omega⟩
  have hruns := timerRuns_of_tickDue (hdue (n + 255) (by omega) (by omega))
  rw [hoff] at hruns
  cases hruns

/-- Settles O22: the core steps left run down to a tick, and the ticks run the timers down. -/
theorem ticksAreWeaklyFair : Obligations.TicksAreWeaklyFair :=
  fun _ hr n => ⟨hr.exists_tick rfl, hr.exists_core n⟩

/-! ## Final states (R95, R103) -/

theorem isFinal_iff (s : State) :
    isFinal s = true ↔ ∃ a, fetchInstr s = .ok (.jump a) ∧ a.value.setWidth 16 = s.pc := by
  unfold isFinal
  split
  · next a h => simp [h]
  · next h => simpa using fun a ha => (h a ha).elim

/-- Whether a state is final is decided by memory and pc. -/
theorem isFinal_congr {s t : State} (hm : t.mem = s.mem) (hp : t.pc = s.pc) : isFinal t = isFinal s := by
  rw [isFinal, isFinal, fetchInstr_congr hm hp, hp]

/-- A jump to pc leaves the whole state as it is. -/
theorem coreStep_of_isFinal {s : State} (h : isFinal s = true) : coreStep s = .next s := by
  obtain ⟨a, hf, ha⟩ := (isFinal_iff s).1 h
  rw [coreStep_of_fetchInstr hf, exec, execJump, ha]
  rfl

/-- Settles O23: the step is the tick agent's turn or the beginning of the core's, and neither touches memory or pc. -/
theorem finalStatesStayFinal : Obligations.FinalStatesStayFinal := by
  intro s h
  refine ⟨coreStep_of_isFinal h, ?_⟩
  cases hdue : tickDue s with
  | true =>
    have hfinal : isFinal (tickTurn s) = true := by rw [isFinal_congr (tickTurn_mem s) (tickTurn_pc s), h]
    exact ⟨tickTurn s, step_of_tickDue hdue, tickTurn_changesOnly s, hfinal⟩
  | false =>
    have hfinal : isFinal (coreTurn s) = true := by rw [isFinal_congr (coreTurn_mem s) (coreTurn_pc s), h]
    have hframe := changesOnly_mono (parts' := [.dt, .st, .asked, .untilTick]) (by simp) (coreTurn_changesOnly s)
    exact ⟨coreTurn s, by rw [step_of_not_tickDue hdue, coreStep_of_isFinal hfinal], hframe, hfinal⟩

/-! ## Where the pc goes (R92, R93, R96, R108) -/

theorem skipIf_pc_cases (s : State) (c : Bool) : (s.skipIf c).pc = s.pc + 2 ∨ (s.skipIf c).pc = s.pc + 4 := by
  cases c
  · exact .inl rfl
  · exact .inr rfl

/-- Settles O27: by cases on the instruction; each pc is that of the last operation on the state. -/
theorem pcAfterAnInstruction : Obligations.PcAfterAnInstruction := by
  intro i s t h
  cases i with
  | ret =>
    obtain rfl := ret_next h
    rfl
  | call =>
    obtain ⟨_, rfl⟩ := call_next h
    rfl
  | jump | jumpWithOffset =>
    obtain rfl := Host.Outcome.next.inj h
    rfl
  | skipEqualConstant | skipNotEqualConstant | skipEqualRegister | skipNotEqualRegister | skipKeyEqual
  | skipKeyNotEqual =>
    obtain rfl := Host.Outcome.next.inj h
    exact skipIf_pc_cases _ _
  | waitKey =>
    rcases waitKey_next h with rfl | ⟨u, rfl⟩
    · exact .inr rfl
    · exact .inl rfl
  | draw | storeBCD | contextStore | contextLoad =>
    obtain ⟨_, hk⟩ := withBounds_next h
    obtain rfl := Host.Outcome.next.inj hk
    rfl
  | _ =>
    obtain rfl := Host.Outcome.next.inj h
    simp

end Sys2Proof.Machine

/-! # Control transfer (spec/42 R101 to R108)

Each next state of a control transfer has its equation; a target outside the program range faults at the core's next
step. -/

namespace Sys2Proof.Machine

/-! ## A transfer and its target (R103, R107, R108) -/

theorem State.goto_of_eq_pc {s : State} {w : Word} (h : w = s.pc) : s.goto w = s := by
  subst h
  rfl

@[simp] theorem State.goto_top (s : State) (w : Word) : (s.goto w).top = s.top := rfl

theorem address_setWidth_toNat (a : Address) : (a.value.setWidth 16).toNat = a.value.toNat :=
  BitVec.toNat_setWidth_of_le (by decide)

/-- A target is not checked at the transfer: the core's next fetch faults (R91, R108). -/
theorem coreStep_outOfRange {s : State} (h : s.pc.toNat < 0x200 ∨ 0xFFE < s.pc.toNat) :
    coreStep s = .fault (.pcOutOfRange s.pc) :=
  coreStep_of_fetchInstr_error (fetchInstr_of_fetch_error (fetch_outOfRange ((fetchable_eq_false_iff s.pc).2 h)))

/-- A transfer alone changes the pc only. -/
theorem goto_changesOnly (s : State) (w : Word) : changesOnly [.pc] s (s.goto w) :=
  (changesOnly_goto (by simp) w).2 (changesOnly_refl _ s)

/-- Settles O32: the next state is `s.goto` of the address, which is `s` itself when the address is the pc. -/
theorem jumpSetsThePc : Obligations.JumpSetsThePc := by
  intro a s
  have ha : (a.value.setWidth 16).toNat = a.value.toNat := address_setWidth_toNat a
  refine ⟨s.goto (a.value.setWidth 16), rfl, ha, goto_changesOnly s _, fun hself => ?_, fun hbad => ?_⟩
  · exact State.goto_of_eq_pc (BitVec.eq_of_toNat_eq (by rw [ha, hself]))
  · exact coreStep_outOfRange (by rw [State.goto_pc, ha]; omega)

/-! ## The offset jump (R107, D15) -/

theorem jumpOffsetRegister_v0 {s : State} (h : s.params.jumpOffsetReg = .v0) (a : Address) :
    jumpOffsetRegister s a = regV0 := by
  rw [jumpOffsetRegister, h]

/-- Under the other setting the register is named by the highest of the address's three digits. -/
theorem jumpOffsetRegister_vx {s : State} (h : s.params.jumpOffsetReg = .vx) (a : Address) :
    jumpOffsetRegister s a = ⟨BitVec.ofNat 4 (a.value.toNat / 256)⟩ := by
  rw [jumpOffsetRegister, h, BitVec.extractLsb', Nat.shiftRight_eq_div_pow]

/-- The sum of a 12-bit and an 8-bit number fits the pc: it is not reduced. -/
theorem jumpOffsetTarget_toNat (s : State) (a : Address) :
    (jumpOffsetTarget s a).toNat = a.value.toNat + (s.getV (jumpOffsetRegister s a)).toNat := by
  have ha := a.value.isLt
  have hv := (s.getV (jumpOffsetRegister s a)).isLt
  simp only [jumpOffsetTarget, BitVec.toNat_add, BitVec.toNat_setWidth]
  omega

/-- Settles O36: the target is the unreduced sum; the switch decides which register it adds. -/
theorem jumpWithOffsetAddsTheRegister : Obligations.JumpWithOffsetAddsTheRegister := by
  intro a s
  have hsum := jumpOffsetTarget_toNat s a
  refine ⟨s.goto (jumpOffsetTarget s a), rfl, fun hv0 => ?_, fun hvx => ?_, jumpOffsetTarget_toNat_le s a,
    goto_changesOnly s _, coreStep_outOfRange⟩
  · rw [State.goto_pc, hsum, jumpOffsetRegister_v0 hv0]
  · rw [State.goto_pc, hsum, jumpOffsetRegister_vx hvx]

/-! ## The call stack (R17, R18, R101, R105) -/

/-- The state in which `w` is pushed at SP, where there is room. -/
def State.push (s : State) (w : Word) (h : s.sp.val < 12) : State :=
  s.withStack (s.stack.set s.sp.val w h) ⟨s.sp.val + 1, by omega⟩

/-- The state in which the entry on top is dropped; it stays in the array. -/
def State.pop (s : State) : State := s.withStack s.stack ⟨s.sp.val - 1, by omega⟩

theorem exec_call_room {s : State} (h : s.sp.val < 12) (a : Address) :
    exec (.call a) s = .next ((s.push (s.pc + 2) h).goto (a.value.setWidth 16)) := by
  rw [exec, execCall, pushThen_room h]
  rfl

theorem exec_ret_live {s : State} (h : s.sp.val ≠ 0) : exec .ret s = .next (s.pop.goto s.top) := by
  rw [exec, execRet, popThen_live h]
  rfl

theorem State.push_stack_same (s : State) (w : Word) (h : s.sp.val < 12) :
    (s.push w h).stack[s.sp.val] = w :=
  Vector.getElem_set_self h

theorem State.push_stack_ne (s : State) (w : Word) (h : s.sp.val < 12) {k : Nat} (hk : k < 12)
    (hne : k ≠ s.sp.val) : (s.push w h).stack[k] = s.stack[k] :=
  Vector.getElem_set_ne h hk hne.symm

@[simp] theorem State.push_top (s : State) (w : Word) (h : s.sp.val < 12) : (s.push w h).top = w :=
  s.push_stack_same w h

/-- Settles O33: `exec_call_room` and `call_fault_iff`; the entries are those of the array after one write. -/
theorem callPushesTheReturnAddress : Obligations.CallPushesTheReturnAddress := by
  refine ⟨fun a s h => ?_, fun a s hfull => (call_fault_iff a s _).2 ⟨hfull, rfl⟩⟩
  have hframe : changesOnly [.pc, .sp, .stack] s ((s.push (s.pc + 2) h).goto (a.value.setWidth 16)) := by
    simpa [State.push] using changesOnly_refl _ s
  exact ⟨_, exec_call_room h a, s.push_stack_same _ h, fun _ hk hne => s.push_stack_ne _ h hk hne, rfl,
    address_setWidth_toNat a, hframe⟩

/-- Settles O34: `exec_ret_live` and `ret_fault_iff`; the pop keeps the array. -/
theorem returnPopsTheStack : Obligations.ReturnPopsTheStack := by
  refine ⟨fun s _ hlive => ?_, fun s hempty => (ret_fault_iff s _).2 ⟨hempty, rfl⟩⟩
  have hframe : changesOnly [.pc, .sp] s (s.pop.goto s.top) := by
    simpa [State.pop] using changesOnly_refl _ s
  exact ⟨_, exec_ret_live hlive, rfl, rfl, hframe, coreStep_outOfRange⟩

/-- A pop after a push, with a transfer between, gives back the depth; the pushed entry is left, stale. -/
theorem State.pop_goto_push (s : State) (w t : Word) (h : s.sp.val < 12) :
    ((s.push w h).goto t).pop = (s.withStack (s.push w h).stack s.sp).goto t :=
  rfl

/-- Entries written at the same depth touch the stack only. -/
theorem changesOnly_withStack_sp {parts : List StatePart} {s t : State} (h : .stack ∈ parts)
    (e : Vector Word 12) : changesOnly parts s (t.withStack e t.sp) ↔ changesOnly parts s t :=
  changesOnly_update h

/-- Settles O35: `Return` finds the entry `Call` pushed, and the pop undoes the push but for that entry. -/
theorem returnUndoesCall : Obligations.ReturnUndoesCall := by
  intro a s h
  have hret : exec .ret ((s.push (s.pc + 2) h).goto (a.value.setWidth 16)) =
      .next (((s.withStack (s.push (s.pc + 2) h).stack s.sp).goto (a.value.setWidth 16)).goto (s.pc + 2)) := by
    rw [exec_ret_live (Nat.succ_ne_zero s.sp.val), State.pop_goto_push, State.goto_top, State.push_top]
  refine ⟨_, _, exec_call_room h a, hret, rfl, rfl, ?_, fun _ hk hne => s.push_stack_ne _ h hk hne⟩
  simpa [changesOnly_withStack_sp] using changesOnly_refl _ s

end Sys2Proof.Machine

/-! # Conditional skips (spec/43 R111 to R121)

Each skip is `State.skipIf` of its condition; a key skip first counts the answer it took (log 2). -/

namespace Sys2Proof.Machine

theorem State.skipIf_pc_of_true (s : State) {c : Bool} (h : c = true) : (s.skipIf c).pc = s.pc + 4 := by
  rw [State.skipIf_pc, if_pos h]

theorem State.skipIf_pc_of_false (s : State) {c : Bool} (h : c = false) : (s.skipIf c).pc = s.pc + 2 := by
  rw [State.skipIf_pc, h, if_neg Bool.false_ne_true]

/-- The two distances change places when the condition is negated (R121). -/
theorem State.skipIf_not_pc (s : State) (c : Bool) :
    (s.skipIf (!c)).pc = if c then s.pc + 2 else s.pc + 4 := by
  cases c
  · exact s.skipIf_pc_of_true rfl
  · exact s.skipIf_pc_of_false rfl

/-- A skip on equal bytes (R111, R115). -/
theorem State.skipIf_beq_pc (s : State) (u w : Byte) :
    (u = w → (s.skipIf (u == w)).pc = s.pc + 4) ∧ (u ≠ w → (s.skipIf (u == w)).pc = s.pc + 2) :=
  ⟨fun h => s.skipIf_pc_of_true (beq_iff_eq.2 h), fun h => s.skipIf_pc_of_false (beq_eq_false_iff_ne.2 h)⟩

/-- A skip on unequal bytes (R113, R117). -/
theorem State.skipIf_bne_pc (s : State) (u w : Byte) :
    (u ≠ w → (s.skipIf (u != w)).pc = s.pc + 4) ∧ (u = w → (s.skipIf (u != w)).pc = s.pc + 2) :=
  ⟨fun h => s.skipIf_pc_of_true (bne_iff_ne.2 h), fun h => s.skipIf_pc_of_false (bne_eq_false_iff_eq.2 h)⟩

theorem skipIf_changesOnly (s : State) (c : Bool) : changesOnly [.pc] s (s.skipIf c) :=
  (changesOnly_skipIf (by simp) c).2 (changesOnly_refl _ s)

/-- A skip on the keyboard's answer changes the count of answers too (log 2). -/
theorem answered_skipIf_changesOnly (s : State) (c : Bool) :
    changesOnly [.pc, .asked] s (s.answered.skipIf c) :=
  (changesOnly_skipIf (by simp) c).2 ((changesOnly_answered (by simp)).2 (changesOnly_refl _ s))

/-- Settles O37: the two skips are `skipIf` of `==` and of `!=` on the register and the constant. -/
theorem skipsOnAConstant : Obligations.SkipsOnAConstant :=
  fun _ _ s =>
    ⟨⟨_, rfl, skipIf_changesOnly s _, s.skipIf_beq_pc _ _⟩, _, rfl, skipIf_changesOnly s _, s.skipIf_bne_pc _ _⟩

/-- Settles O38: as for a constant; a register compared with itself is the equal case. -/
theorem skipsOnRegisters : Obligations.SkipsOnRegisters := by
  intro x y s
  obtain ⟨heqSkips, hneStays⟩ := s.skipIf_beq_pc (s.getV x) (s.getV y)
  obtain ⟨hneSkips, heqStays⟩ := s.skipIf_bne_pc (s.getV x) (s.getV y)
  have hself : x = y → s.getV x = s.getV y := congrArg s.getV
  exact ⟨⟨_, rfl, skipIf_changesOnly s _, heqSkips, hneStays, heqSkips ∘ hself⟩,
    _, rfl, skipIf_changesOnly s _, hneSkips, heqStays, heqStays ∘ hself⟩

/-- Settles O39: the answer, or its negation, is the condition of the skip, whatever the keyboard answers. -/
theorem skipsOnAKey : Obligations.SkipsOnAKey := by
  intro r s
  refine ⟨⟨_, rfl, answered_skipIf_changesOnly s _, s.answered.skipIf_pc _⟩,
    ⟨_, rfl, answered_skipIf_changesOnly s _, s.answered.skipIf_not_pc _⟩, fun down => ⟨_, _, rfl, rfl, ?_, ?_⟩⟩
  · rintro rfl
    exact ⟨s.answered.skipIf_pc_of_true rfl, s.answered.skipIf_pc_of_false rfl⟩
  · rintro rfl
    exact ⟨s.answered.skipIf_pc_of_false rfl, s.answered.skipIf_pc_of_true rfl⟩

end Sys2Proof.Machine

/-! # Constants and random (spec/44 R131 to R137)

Each next state is one register write, or one write of `I`, and then the sequential advance; `Rand` first counts the
answer it took (log 2). -/

namespace Sys2Proof.Machine

/-- The register written holds the value after the advance (R11). -/
theorem State.setV_advance_getV_self (s : State) (r : Register) (u : Byte) : (s.setV r u).advance.getV r = u := by
  rw [State.advance_getV, State.setV_getV, if_pos rfl]

/-- A register not written is as before, VF too (R131, R133, R137). -/
theorem State.setV_advance_getV_ne (s : State) (u : Byte) {q r : Register} (h : q ≠ r) :
    (s.setV r u).advance.getV q = s.getV q := by
  rw [State.advance_getV, State.setV_getV, if_neg h]

/-- Settles O40: both are one register write; the sum of two bytes is reduced modulo 256. -/
theorem loadAndAddConstant : Obligations.LoadAndAddConstant := by
  intro r c s
  refine ⟨⟨_, rfl, rfl, exec_changesOnly (i := .loadConstant r c) rfl, fun q => s.setV_getV r q c.value⟩,
    _, rfl, rfl, exec_changesOnly (i := .addConstant r c) rfl, ?sum, fun q hq => s.setV_advance_getV_ne _ hq⟩
  case sum => rw [State.setV_advance_getV_self, BitVec.toNat_add]

/-- Settles O41: the address keeps its value when it is widened to 16 bits. -/
theorem loadAddressConstantSetsI : Obligations.LoadAddressConstantSetsI := by
  intro a s
  exact ⟨_, rfl, rfl, address_setWidth_toNat a, Nat.le_of_lt_succ (address_setWidth_toNat_lt a),
    exec_changesOnly (i := .loadAddressConstant a) rfl⟩

/-- Settles O42: the register holds the masked byte whatever the byte is, and a mask adds no bit. -/
theorem randMasksAFreeByte : Obligations.RandMasksAFreeByte := by
  intro r c s
  have hmasked := fun u : Byte => s.answered.setV_advance_getV_self r (u &&& c.value)
  refine ⟨⟨_, rfl, rfl, exec_changesOnly (i := .rand r c) rfl, hmasked _, fun k hbit => ?bits, fun hzero => ?zero,
    fun q hq => s.answered.setV_advance_getV_ne _ hq⟩, fun u => ⟨_, rfl, hmasked u⟩⟩
  case bits =>
    rw [hmasked, BitVec.getLsbD_and, Bool.and_eq_true] at hbit
    exact hbit.2
  case zero =>
    rw [hmasked, hzero]
    exact BitVec.and_zero

end Sys2Proof.Machine

/-! # The arithmetic and logic family (spec/45 R142 to R159)

Every next state is the sequential advance of one register write (`Copy`), of a logic result, or of a result and then
a flag (R158). -/

namespace Sys2Proof.Machine

/-! ## Copy (R142) -/

/-- A register written with its own value leaves the state as it is. -/
theorem State.setV_getV_same (s : State) (r : Register) : s.setV r (s.getV r) = s := by
  rw [State.setV, State.getV, Vector.set_getElem_self]

theorem advance_changesOnly (s : State) : changesOnly [.pc] s s.advance :=
  (changesOnly_advance (by simp)).2 (changesOnly_refl _ s)

/-- Settles O43: `Copy` is one register write, and a register copied onto itself is written with its own value. -/
theorem copyMovesARegister : Obligations.CopyMovesARegister := by
  intro x y s
  refine ⟨_, rfl, rfl, exec_changesOnly (i := .copy x y) rfl, fun q => s.setV_getV x q _, ?_⟩
  rintro rfl
  rw [State.setV_getV_same]
  exact advance_changesOnly s

/-! ## Or, And, Xor (R143, R145, R147) -/

/-- The three logic instructions write a result whose bits are the operation of the operands' bits. -/
theorem exec_logic_bits {x y : Register} {i : Instr} {f : Bool → Bool → Bool}
    (h : (i = .or x y ∧ f = (· || ·)) ∨ (i = .and x y ∧ f = (· && ·)) ∨ (i = .xor x y ∧ f = Bool.xor)) (s : State) :
    ∃ u, exec i s = .next (s.setLogicResult x u).advance ∧
      ∀ k, u.getLsbD k = f ((s.getV x).getLsbD k) ((s.getV y).getLsbD k) := by
  rcases h with ⟨rfl, rfl⟩ | ⟨rfl, rfl⟩ | ⟨rfl, rfl⟩
  · exact ⟨_, rfl, fun _ => BitVec.getLsbD_or⟩
  · exact ⟨_, rfl, fun _ => BitVec.getLsbD_and⟩
  · exact ⟨_, rfl, fun _ => BitVec.getLsbD_xor⟩

/-- With the switch true VF ends as 0, also as the destination (R158, D16). -/
theorem State.setLogicResult_getV_regVF {s : State} (h : s.params.logicResetsVF = true) (x : Register) (u : Byte) :
    (s.setLogicResult x u).getV regVF = 0 := by
  rw [State.setLogicResult_getV, if_pos ⟨h, rfl⟩]

/-- A register the switch does not reset is written as by a plain register write. -/
theorem State.setLogicResult_getV_of_not_reset {s : State} {q : Register}
    (h : s.params.logicResetsVF = true → q ≠ regVF) (x : Register) (u : Byte) :
    (s.setLogicResult x u).getV q = if q = x then u else s.getV q := by
  rw [State.setLogicResult_getV, if_neg (not_and.2 h)]

/-- Settles O44: the bits are those of `exec_logic_bits`; the switch decides whether VF is reset or is an ordinary
register. -/
theorem logicOperations : Obligations.LogicOperations := by
  intro x y s i f hop
  obtain ⟨u, hexec, hbits⟩ := exec_logic_bits hop s
  have hframe : changesOnly [.pc, .v] s (s.setLogicResult x u).advance :=
    (changesOnly_advance (by simp)).2 ((changesOnly_setLogicResult (by simp) x u).2 (changesOnly_refl _ s))
  refine ⟨_, hexec, ?pc, hframe, fun hreset => State.setLogicResult_getV_regVF hreset x u, fun q hq => ?regs⟩
  case pc => rw [State.advance_pc, State.setLogicResult_pc]
  case regs =>
    rw [State.advance_getV, State.setLogicResult_getV_of_not_reset hq]
    refine ⟨fun hqx k _ => ?_, fun hqx => if_neg hqx⟩
    rw [if_pos hqx]
    exact hbits k

/-! ## A result and its flag (R158) -/

/-- An instruction that writes a result and then a flag: VF holds the flag, also as the destination; another
destination holds the result; nothing else but the pc changes. -/
theorem exec_setResultFlag_spec {i : Instr} {s : State} {x : Register} {u f : Byte} {result flag : Nat}
    (h : exec i s = .next (s.setResultFlag x u f).advance) (hf : f.toNat = flag) (hu : u.toNat = result) :
    ∃ t, exec i s = .next t ∧ t.pc = s.pc + 2 ∧ changesOnly [.pc, .v] s t ∧ (t.getV regVF).toNat = flag ∧
      (x ≠ regVF → (t.getV x).toNat = result) ∧ ∀ q, q ≠ x → q ≠ regVF → t.getV q = s.getV q := by
  have hframe : changesOnly [.pc, .v] s (s.setResultFlag x u f).advance :=
    (changesOnly_advance (by simp)).2 ((changesOnly_setResultFlag (by simp) x u f).2 (changesOnly_refl _ s))
  refine ⟨_, h, rfl, hframe, ?_, fun hx => ?_, fun q hqx hqf => ?_⟩ <;>
    rw [State.advance_getV, State.setResultFlag_getV]
  · rw [if_pos rfl, hf]
  · rw [if_neg hx, if_pos rfl, hu]
  · rw [if_neg hqf, if_neg hqx]

theorem flagByte_toNat (c : Bool) : (flagByte c).toNat = if c = true then 1 else 0 := by
  cases c <;> rfl

/-! ## Add, Sub, MinusSub (R149, R151, R155) -/

/-- The carry is 1 exactly when the sum passes 255. -/
theorem carryFlag_toNat (a b : Byte) : (carryFlag a b).toNat = if 255 < a.toNat + b.toNat then 1 else 0 := by
  simp only [carryFlag, flagByte_toNat, decide_eq_true_eq, gt_iff_lt]

/-- NOT borrow is 1 exactly when the subtrahend is at most the minuend, equal operands too. -/
theorem notBorrowFlag_toNat (a b : Byte) : (notBorrowFlag a b).toNat = if b.toNat ≤ a.toNat then 1 else 0 := by
  simp only [notBorrowFlag, flagByte_toNat, decide_eq_true_eq, ge_iff_le]

/-- The difference of two bytes modulo 256, with no subtraction below 0. -/
theorem byte_sub_toNat (a b : Byte) : (a - b).toNat = (a.toNat + 256 - b.toNat) % 256 := by
  have hb := b.isLt
  rw [BitVec.toNat_sub]
  congr 1
  omega

/-- Settles O45: a result and its flag, the sum of two bytes and its carry. -/
theorem addSetsTheCarry : Obligations.AddSetsTheCarry :=
  fun x y _ => exec_setResultFlag_spec (i := .add x y) rfl (carryFlag_toNat _ _) (BitVec.toNat_add _ _)

/-- Settles O46: a result and its flag; `MinusSub` is the same with the operands exchanged. -/
theorem subtractionsSetNotBorrow : Obligations.SubtractionsSetNotBorrow :=
  fun x y _ =>
    ⟨exec_setResultFlag_spec (i := .sub x y) rfl (notBorrowFlag_toNat _ _) (byte_sub_toNat _ _),
      exec_setResultFlag_spec (i := .minusSub x y) rfl (notBorrowFlag_toNat _ _) (byte_sub_toNat _ _)⟩

/-! ## The shifts (R153, R157) -/

/-- The source is `V[y]` or `V[x]`, as the switch says (D13). -/
theorem shiftSource_toNat {s : State} {x y : Register} {src : Nat}
    (h : (s.params.shiftSrc = .vy ∧ src = (s.getV y).toNat) ∨ (s.params.shiftSrc = .vx ∧ src = (s.getV x).toNat)) :
    (shiftSource s x y).toNat = src := by
  rcases h with ⟨hsrc, rfl⟩ | ⟨hsrc, rfl⟩ <;> rw [shiftSource, hsrc]

theorem shiftRightFlag_toNat (u : Byte) : (shiftRightFlag u).toNat = u.toNat % 2 := by
  rw [shiftRightFlag, BitVec.toNat_and]
  exact Nat.and_one_is_mod _

theorem shiftLeftFlag_toNat (u : Byte) : (shiftLeftFlag u).toNat = u.toNat / 128 := by
  rw [shiftLeftFlag, BitVec.toNat_ushiftRight, Nat.shiftRight_eq_div_pow]

/-- A byte moved right by one bit is halved (R153). -/
theorem byte_shiftRight_one_toNat (u : Byte) : (u >>> 1).toNat = u.toNat / 2 := by
  rw [BitVec.toNat_ushiftRight, Nat.shiftRight_eq_div_pow, Nat.pow_one]

/-- A byte moved left by one bit is doubled modulo 256 (R157). -/
theorem byte_shiftLeft_one_toNat (u : Byte) : (u <<< 1).toNat = u.toNat * 2 % 256 := by
  rw [BitVec.toNat_shiftLeft, Nat.shiftLeft_eq, Nat.pow_one]

/-- Settles O47: a result and its flag, both of the one source. -/
theorem shiftsMoveOneBit : Obligations.ShiftsMoveOneBit := by
  intro x y s src h
  obtain rfl := shiftSource_toNat h
  exact ⟨exec_setResultFlag_spec (i := .shiftRight x y) rfl (shiftRightFlag_toNat _) (byte_shiftRight_one_toNat _),
    exec_setResultFlag_spec (i := .shiftLeft x y) rfl (shiftLeftFlag_toNat _) (byte_shiftLeft_one_toNat _)⟩

end Sys2Proof.Machine

/-! # Display (spec/46 R161, R163)

Each next state is one event emitted on the display port and then the sequential advance; `Draw` first checks the rows'
addresses, counts the answer it took (log 2) and writes it to VF. -/

namespace Sys2Proof.Machine

/-- Settles O48: the next state is the sequential advance of one emitted event. -/
theorem clearDisplayEmitsItsEvent : Obligations.ClearDisplayEmitsItsEvent :=
  fun s => ⟨_, rfl, rfl, s.emit_display .clearScreen, exec_changesOnly (i := .clearDisplay) rfl⟩

/-- The state after a `Draw` whose collision answer is `bit`, where every row exists. -/
def State.drawn (s : State) (bit : BitVec 1) (x y : Register) (n : Constant4) : State :=
  ((s.answered.emit (spriteEvent x y n s)).setV regVF (bit.setWidth 8)).advance

/-- Where the last row is at most at 0xFFF, or there is none, the draw completes. -/
theorem drawWith_inBounds {n : Constant4} {s : State}
    (h : n.value.toNat = 0 ∨ s.iReg.toNat + n.value.toNat - 1 ≤ 0xFFF) (bit : BitVec 1) (x y : Register) :
    drawWith bit x y n s = .next (s.drawn bit x y n) :=
  withBounds_ok (by omega) _

/-- VF holds the answer as a byte. -/
theorem State.drawn_getV_regVF_toNat (s : State) (bit : BitVec 1) (x y : Register) (n : Constant4) :
    ((s.drawn bit x y n).getV regVF).toNat = bit.toNat := by
  rw [State.drawn, State.setV_advance_getV_self]
  exact BitVec.toNat_setWidth_of_le (by decide)

/-- The event is added last, its coordinates and rows those of the state before the draw. -/
theorem State.drawn_display (s : State) (bit : BitVec 1) (x y : Register) (n : Constant4) :
    (s.drawn bit x y n).display = s.display ++ [.drawSprite (s.getV x) (s.getV y)
      ((List.range n.value.toNat).map fun k => s.mem.read (s.iReg.toNat + k))] := by
  rw [← Memory.readBlock_eq_map]
  rfl

theorem State.drawn_getV_ne (s : State) (bit : BitVec 1) (x y : Register) (n : Constant4) {q : Register}
    (h : q ≠ regVF) : (s.drawn bit x y n).getV q = s.getV q :=
  (s.answered.emit _).setV_advance_getV_ne _ h

theorem State.drawn_changesOnly (s : State) (bit : BitVec 1) (x y : Register) (n : Constant4) :
    changesOnly [.pc, .v, .display, .asked] s (s.drawn bit x y n) := by
  simpa [State.drawn] using changesOnly_refl _ s

/-- Settles O49: by the bounds check; with every row in bounds the next state is `s.drawn`, whatever the answer is. -/
theorem drawEmitsTheSpriteAndAFreeBit : Obligations.DrawEmitsTheSpriteAndAFreeBit := by
  refine fun x y n s => ⟨fun hrows => ?rowsExist, fun hn hout => withBounds_fault hn (by omega) _⟩
  case rowsExist =>
    have hnext := fun bit => drawWith_inBounds hrows bit x y
    exact ⟨⟨_, hnext (Config.drawBit s.asked), rfl, s.drawn_changesOnly _ x y n, s.drawn_display _ x y n,
      s.drawn_getV_regVF_toNat _ x y n, fun _ hq => s.drawn_getV_ne _ x y n hq⟩,
      fun bit => ⟨_, hnext bit, s.drawn_getV_regVF_toNat bit x y n⟩⟩

end Sys2Proof.Machine

/-! # Timers, the key wait, index arithmetic, BCD and context (spec/47 R172 to R187)

Each next state is one update and then the sequential advance. The memory instructions first check their addresses, and
what they stored is read back byte by byte. -/

namespace Sys2Proof.Machine

/-! ## Timers (R172, R176, R178) -/

/-- Settles O50: each is one write, of a register or of a timer, and then the sequential advance. -/
theorem timerMoves : Obligations.TimerMoves :=
  fun r s =>
    ⟨⟨_, rfl, rfl, exec_changesOnly (i := .loadDelayTimer r) rfl, fun q => s.setV_getV r q s.dt⟩,
      ⟨_, rfl, rfl, rfl, exec_changesOnly (i := .storeDelayTimer r) rfl⟩,
      _, rfl, rfl, rfl, exec_changesOnly (i := .storeBeepTimer r) rfl⟩

/-! ## The key wait (R96, R173) -/

/-- A held core changes only the count of answers (log 2, log 4). -/
theorem answered_changesOnly (s : State) : changesOnly [.asked] s s.answered :=
  (changesOnly_answered (by simp)).2 (changesOnly_refl _ s)

/-- The register holds the number of the presented key. -/
theorem keyTaken_getV_toNat (s : State) (r : Register) (k : BitVec 4) :
    ((s.answered.setV r (k.setWidth 8)).advance.getV r).toNat = k.toNat := by
  rw [State.setV_advance_getV_self]
  exact BitVec.toNat_setWidth_of_le (by decide)

/-- Settles O51: by whether the keyboard presents a key, and the same for every answer. -/
theorem waitKeyTakesAKeyOrHolds : Obligations.WaitKeyTakesAKeyOrHolds := by
  intro r s
  refine ⟨?_, fun k => ⟨_, rfl, rfl, keyTaken_getV_toNat s r k, ?_⟩, s.answered, rfl, answered_changesOnly s⟩
  · rw [exec, execWaitKey]
    cases Config.keyPresented s.asked with
    | none => exact ⟨_, rfl, answered_changesOnly s⟩
    | some k =>
      have hframe : changesOnly [.pc, .v, .asked] s (s.answered.setV r (k.setWidth 8)).advance := by
        simpa using changesOnly_refl _ s
      exact ⟨_, rfl, rfl, keyTaken_getV_toNat s r k, fun q hq => s.answered.setV_advance_getV_ne _ hq, hframe⟩
  · rw [keyTaken_getV_toNat]
    exact Nat.le_of_lt_succ k.isLt

/-! ## The index register (R180, R181) -/

/-- A block that begins above 0xFFF faults at its first address (R37). -/
theorem withBounds_fault_base {base n : Nat} (h0 : n ≠ 0) (h : 0xFFF < base) (r : Result) :
    withBounds base n r = .fault (.memoryOutOfBounds base) := by
  have hmax : max base 0x1000 = base := by omega
  rw [withBounds_fault h0 (by omega), hmax]

/-- Settles O52: a sum of two words is reduced modulo 65536; the bounds checks are those of blocks from `I` up. -/
theorem addAddressAddsToI : Obligations.AddAddressAddsToI := by
  intro r s
  refine ⟨_, rfl, rfl, ?sum, exec_changesOnly (i := .addAddress r) rfl, fun h q n => ?past⟩
  case sum =>
    rw [State.advance_iReg, State.setI_iReg, BitVec.toNat_add, BitVec.toNat_setWidth_of_le (by decide)]
  case past =>
    exact ⟨withBounds_fault_base (by decide) h _, withBounds_fault_base (Nat.succ_ne_zero _) h _,
      withBounds_fault_base (Nat.succ_ne_zero _) h _, fun hn => withBounds_fault_base hn h _⟩

/-- The glyph's address, not reduced: the font ends at or below 0x200. -/
theorem spriteAddress_toNat (s : State) (u : Byte) :
    (spriteAddress s u).toNat = s.params.fontBase.val + 5 * (u.toNat % 16) := by
  have hbase := s.params.fontBase.isLt
  have hdigit : (u &&& 0x0F).toNat = u.toNat % 16 := by
    rw [BitVec.toNat_and]
    exact Nat.and_two_pow_sub_one_eq_mod u.toNat 4
  rw [spriteAddress, hdigit, toNat_ofNat_of_lt (by omega)]

/-- Settles O53: `I` becomes `spriteAddress`, which lies below the end of the font. -/
theorem loadSpriteAddressPointsAtTheDigit : Obligations.LoadSpriteAddressPointsAtTheDigit := by
  intro r s
  have hbase := s.params.fontBase.isLt
  have haddr := spriteAddress_toNat s (s.getV r)
  exact ⟨by omega, s.setI (spriteAddress s (s.getV r)) |>.advance, rfl, rfl, haddr, haddr.trans_lt (by omega),
    exec_changesOnly (i := .loadSpriteAddress r) rfl⟩

/-! ## Stored blocks (R183, R185) -/

/-- The k-th byte of a stored block is read back at base + k. -/
theorem Memory.read_writeBlock_add (m : Memory) (base : Nat) {us : List Byte} {k : Nat} (hk : k < us.length) :
    (m.writeBlock base us).read (base + k) = us.getD k 0 := by
  rw [Memory.read_writeBlock, if_pos (by omega), Nat.add_sub_cancel_left]

/-- Settles O54: by the bounds check; the block stored is the three digits. -/
theorem storeBCDWritesThreeDigits : Obligations.StoreBCDWritesThreeDigits := by
  refine fun r s => ⟨fun hin => ?inBounds, fun hout => withBounds_fault (by decide) (by omega) _⟩
  case inBounds =>
    have hexec : exec (.storeBCD r) s = .next (s.storeBytes s.iReg.toNat (bcdDigits (s.getV r))).advance :=
      withBounds_ok (by omega) _
    have hstored : ∀ k < 3, (s.mem.writeBlock s.iReg.toNat (bcdDigits (s.getV r))).read (s.iReg.toNat + k) =
        (bcdDigits (s.getV r)).getD k 0 := fun k hk => Memory.read_writeBlock_add _ _ hk
    obtain ⟨hhundreds, htens, hones⟩ := bcdDigits_toNat (s.getV r)
    exact ⟨_, hexec, rfl, exec_changesOnly hexec, (congrArg _ (hstored 0 (by decide))).trans hhundreds,
      (congrArg _ (hstored 1 (by decide))).trans htens, (congrArg _ (hstored 2 (by decide))).trans hones,
      fun a ha => exec_read_outside hexec ha⟩

/-! ## Context (R185, R187) -/

/-- The bytes a context instruction moves all exist when the last one does. -/
theorem contextCount_le_iff (base : Nat) (x : Register) :
    base + contextCount x ≤ 4096 ↔ base + x.index.toNat ≤ 0xFFF :=
  Nat.succ_le_succ_iff

/-- Whatever the switch, a context instruction moves at least one byte, so its last address is checked (R37). -/
theorem withBounds_context_fault {base : Nat} {x : Register} (h : 0xFFF < base + x.index.toNat) (r : Result) :
    withBounds base (contextCount x) r = .fault (.memoryOutOfBounds (max base 0x1000)) :=
  withBounds_fault (Nat.succ_ne_zero _) (Nat.succ_lt_succ h) r

/-- `I` after a context instruction whose last address exists does not wrap. -/
theorem contextIndex_toNat {s : State} {x : Register} (h : s.iReg.toNat + x.index.toNat ≤ 0xFFF) :
    (contextIndex s x).toNat = if s.params.memIncrI then s.iReg.toNat + x.index.toNat + 1 else s.iReg.toNat := by
  unfold contextIndex
  split
  · have hx : (x.index.setWidth 16).toNat = x.index.toNat := BitVec.toNat_setWidth_of_le (by decide)
    bv_omega
  · rfl

/-- Whatever the switch, a `ContextStore` writes at most the pc, memory and `I`. -/
theorem contextStore_changesOnly {x : Register} {s t : State} (h : exec (.contextStore x) s = .next t) :
    changesOnly [.pc, .mem, .iReg] s t := by
  refine changesOnly_mono ?_ (exec_changesOnly h)
  simp only [mayWrite]
  split <;> simp

/-- Whatever the switch, a `ContextLoad` writes at most the pc, the registers and `I`. -/
theorem contextLoad_changesOnly {x : Register} {s t : State} (h : exec (.contextLoad x) s = .next t) :
    changesOnly [.pc, .v, .iReg] s t := by
  refine changesOnly_mono ?_ (exec_changesOnly h)
  simp only [mayWrite]
  split <;> simp

/-- Settles O55: by the bounds check; the block stored is `V[0]` to `V[x]`. -/
theorem contextStoreSavesRegisters : Obligations.ContextStoreSavesRegisters := by
  refine fun x s => ⟨fun hin => ?inBounds, fun hout => withBounds_context_fault hout _⟩
  case inBounds =>
    have hexec : exec (.contextStore x) s =
        .next ((s.storeBytes s.iReg.toNat (contextBytes s x)).setI (contextIndex s x)).advance :=
      withBounds_ok (.inr ((contextCount_le_iff _ x).2 hin)) _
    refine ⟨_, hexec, rfl, contextStore_changesOnly hexec, fun r hr => ?_, fun a ha => ?_, contextIndex_toNat hin⟩
    · have hlen : r.index.toNat < (contextBytes s x).length := by rw [contextBytes_length, contextCount]; omega
      rw [← contextBytes_getD s x r hr]
      exact Memory.read_writeBlock_add _ _ hlen
    · exact exec_read_outside hexec (by rw [storedCount, contextCount]; omega)

/-- Settles O56: by the bounds check; the bytes loaded are the block from `I` up. -/
theorem contextLoadRestoresRegisters : Obligations.ContextLoadRestoresRegisters := by
  refine fun x s => ⟨fun hin => ?inBounds, fun hout => withBounds_context_fault hout _⟩
  case inBounds =>
    have hexec : exec (.contextLoad x) s = .next ((s.loadRegs (s.mem.readBlock s.iReg.toNat (contextCount x))).setI
        (contextIndex s x)).advance :=
      withBounds_ok (.inr ((contextCount_le_iff _ x).2 hin)) _
    refine ⟨_, hexec, rfl, contextLoad_changesOnly hexec, fun r => ?_, contextIndex_toNat hin⟩
    rw [State.advance_getV, State.setI_getV, State.loadRegs_getV, Memory.readBlock_length]
    by_cases hr : r.index.toNat ≤ x.index.toNat
    · have hlt : r.index.toNat < contextCount x := Nat.lt_succ_of_le hr
      rw [if_pos hr, if_pos hlt, Memory.readBlock_getD _ _ _ _ hlt]
    · have hge : ¬ r.index.toNat < contextCount x := mt Nat.le_of_lt_succ hr
      rw [if_neg hr, if_neg hge]

/-- Settles O57: by O55 the saved bytes are the registers, and by O56 the loaded registers are those bytes. -/
theorem contextSurvivesSaveAndRestore : Obligations.ContextSurvivesSaveAndRestore := by
  intro x s t u hstore hmem hi
  have hin : s.iReg.toNat + x.index.toNat ≤ 0xFFF := Nat.le_of_lt_succ (contextStore_next hstore).1
  obtain ⟨t', hstore', _, _, hsaved, _⟩ := (contextStoreSavesRegisters x s).1 hin
  obtain rfl : t = t' := Host.Outcome.next.inj (hstore.symm.trans hstore')
  obtain ⟨w, hload, _, _, hloaded, _⟩ := (contextLoadRestoresRegisters x u).1 (hi ▸ hin)
  refine ⟨w, hload, fun r => (hloaded r).trans ?_⟩
  rw [hmem, hi]
  exact ite_congr rfl (hsaved r) fun _ => rfl

end Sys2Proof.Machine

/-! # Faults, answers and the display history (spec/60 R200, R207, R209, R219 to R221) -/

namespace Sys2Proof.Machine

/-! ## Which faults there are, and no refusal (R200, R209) -/

theorem withBounds_ne_refused (base n : Nat) (t : State) (r : Refusal) : withBounds base n (.next t) ≠ .refused r := by
  rcases withBounds_cases base n (.next t) with ⟨_, he⟩ | ⟨_, _, he⟩ <;> rw [he] <;> nofun

theorem ret_ne_refused (s : State) (r : Refusal) : exec .ret s ≠ .refused r := by
  rw [exec, execRet]
  by_cases hsp : s.sp.val = 0
  · rw [popThen_empty hsp]; nofun
  · rw [popThen_live hsp]; nofun

theorem call_ne_refused (a : Address) (s : State) (r : Refusal) : exec (.call a) s ≠ .refused r := by
  rw [exec, execCall]
  by_cases hsp : s.sp.val = 12
  · rw [pushThen_full hsp]; nofun
  · rw [pushThen_room (by omega)]; nofun

theorem waitKey_ne_refused (x : Register) (s : State) (r : Refusal) : exec (.waitKey x) s ≠ .refused r := by
  rw [exec, execWaitKey]
  cases Config.keyPresented s.asked <;> nofun

/-- Every instruction has its meaning. -/
theorem exec_ne_refused (i : Instr) (s : State) (r : Refusal) : exec i s ≠ .refused r := by
  cases i with
  | ret => exact ret_ne_refused s r
  | call a => exact call_ne_refused a s r
  | waitKey x => exact waitKey_ne_refused x s r
  | draw | storeBCD | contextStore | contextLoad => exact withBounds_ne_refused _ _ _ r
  | _ => nofun

theorem step_ne_refused (s : State) (r : Refusal) : step s ≠ .refused r := by
  cases hdue : tickDue s with
  | true => rw [step_of_tickDue hdue]; nofun
  | false =>
    rw [step_of_not_tickDue hdue]
    rcases coreStep_cases (coreTurn s) with ⟨f, _, he⟩ | ⟨i, _, he⟩ <;> rw [he]
    · nofun
    · exact exec_ne_refused i _ r

/-- A bounds check faults on its last address and records the first one out of range (R37). -/
theorem lastAddress_of_withBounds_fault {base n : Nat} {t : State} {f : Fault}
    (h : withBounds base n (.next t) = .fault f) :
    n ≠ 0 ∧ 0xFFF < base + n - 1 ∧ f = .memoryOutOfBounds (max base 0x1000) := by
  obtain ⟨hn, hout, hf⟩ := (withBounds_fault_iff base n t f).1 h
  exact ⟨hn, by omega, hf⟩

/-- Settles O26: by cases on the instruction; `Call`, `Return` and the bounds check each say when they fault. -/
theorem faultsOfInstructions : Obligations.FaultsOfInstructions := by
  refine ⟨fun i s f h => ?_, step_ne_refused⟩
  cases i with
  | call a => exact .inl ⟨a, rfl, (call_fault_iff a s f).1 h⟩
  | ret => exact .inr (.inl ⟨rfl, (ret_fault_iff s f).1 h⟩)
  | waitKey r => exact absurd h (waitKey_ne_fault r s f)
  | draw x y n => exact .inr (.inr ⟨_, .inl ⟨x, y, n, rfl, rfl⟩, lastAddress_of_withBounds_fault h⟩)
  | storeBCD r => exact .inr (.inr ⟨_, .inr (.inl ⟨r, rfl, rfl⟩), lastAddress_of_withBounds_fault h⟩)
  | contextStore x =>
    exact .inr (.inr ⟨_, .inr (.inr (.inl ⟨x, rfl, rfl⟩)), lastAddress_of_withBounds_fault h⟩)
  | contextLoad x =>
    exact .inr (.inr ⟨_, .inr (.inr (.inr ⟨x, rfl, rfl⟩)), lastAddress_of_withBounds_fault h⟩)
  | _ => cases h

/-! ## Answers taken (R220, R221, log 2) -/

/-- Settles O28: the count advances by `answersTaken`, which is 1 for the five asking instructions and 0 for the rest. -/
theorem eachAskingTakesOneAnswer : Obligations.EachAskingTakesOneAnswer := by
  intro i s t h
  have hasked : t.asked = s.asked + answersTaken i := (exec_ports h).asked
  cases i with | _ => exact hasked

/-! ## The display history (R219, log 7) -/

/-- The state with another history of display events. -/
def State.withHistory (s : State) (d : List DisplayEvent) : State := { s with display := d }

theorem setLogicResult_withHistory (s : State) (d : List DisplayEvent) (x : Register) (u : Byte) :
    (s.withHistory d).setLogicResult x u = (s.setLogicResult x u).withHistory d := by
  unfold State.setLogicResult State.withHistory
  split <;> rfl

theorem waitKeyWith_withHistory {key : Option (BitVec 4)} {r : Register} {s t : State}
    (h : waitKeyWith key r s = .next t) (d : List DisplayEvent) :
    waitKeyWith key r (s.withHistory d) = .next (t.withHistory d) := by
  cases key with
  | none | some =>
    obtain rfl := Host.Outcome.next.inj h
    rfl

/-- On another history every instruction answers as before, and adds its events to that history. -/
theorem exec_withHistory {i : Instr} {s t : State} (h : exec i s = .next t) (d : List DisplayEvent) :
    exec i (s.withHistory d) = .next (t.withHistory (d ++ emittedEvents i s)) := by
  cases i with
  | clearDisplay =>
    obtain rfl := Host.Outcome.next.inj h
    rfl
  | draw =>
    obtain ⟨hb, hk⟩ := withBounds_next h
    obtain rfl := Host.Outcome.next.inj hk
    exact withBounds_ok hb _
  | ret =>
    have hlive : s.sp.val ≠ 0 := fun hempty => by rw [(ret_fault_iff s _).2 ⟨hempty, rfl⟩] at h; cases h
    obtain rfl := ret_next h
    simp only [emittedEvents, List.append_nil]
    exact exec_ret_live (s := s.withHistory d) hlive
  | call a =>
    obtain ⟨hroom, rfl⟩ := call_next h
    simp only [emittedEvents, List.append_nil]
    exact exec_call_room (s := s.withHistory d) hroom a
  | waitKey r =>
    simp only [emittedEvents, List.append_nil]
    exact waitKeyWith_withHistory h d
  | or | and | xor =>
    obtain rfl := Host.Outcome.next.inj h
    simp only [emittedEvents, List.append_nil, exec, execOr, execAnd, execXor, setLogicResult_withHistory]
    rfl
  | storeBCD | contextStore | contextLoad =>
    obtain ⟨hb, hk⟩ := withBounds_next h
    obtain rfl := Host.Outcome.next.inj hk
    simp only [emittedEvents, List.append_nil]
    exact withBounds_ok hb _
  | _ =>
    obtain rfl := Host.Outcome.next.inj h
    simp only [emittedEvents, List.append_nil]
    rfl

/-- The schedule does not look at the history. -/
theorem coreTurn_withHistory (s : State) (d : List DisplayEvent) :
    coreTurn (s.withHistory d) = (coreTurn s).withHistory d := by
  have hruns : timerRuns (s.withHistory d) = timerRuns s := rfl
  have hleft : (s.withHistory d).untilTick = s.untilTick := rfl
  unfold coreTurn
  rw [hruns, hleft]
  split <;> rfl

/-- Settles O30: a tick emits nothing, and a core step the events of its instruction. -/
theorem displayHistoryDecidesNothing : Obligations.DisplayHistoryDecidesNothing := by
  intro s t d h
  show ∃ es, t.display = s.display ++ es ∧ step (s.withHistory d) = .next (t.withHistory (d ++ es))
  rcases step_next h with ⟨hdue, rfl⟩ | ⟨hnotDue, _, i, hfetch, hexec⟩
  · have hdue' : tickDue (s.withHistory d) = true := hdue
    refine ⟨[], (List.append_nil _).symm, ?_⟩
    rw [step_of_tickDue hdue', List.append_nil]
    rfl
  · have hnotDue' : tickDue (s.withHistory d) = false := hnotDue
    have hfetch' : fetchInstr (s.withHistory d) = .ok i := hfetch
    have hdisplay : t.display = s.display ++ emittedEvents i (coreTurn s) := by
      rw [(exec_ports hexec).display, coreTurn_display]
    refine ⟨emittedEvents i (coreTurn s), hdisplay, ?_⟩
    rw [step_of_fetchInstr hnotDue' hfetch', coreTurn_withHistory]
    exact exec_withHistory hexec d

end Sys2Proof.Machine

/-! # Load, zeroed memory and the platform's font (spec/70 R230 to R237) -/

namespace Sys2Proof.Machine

/-! ## Load (R230, R231, R234) -/

/-- The image lies from 0x200 up, and every other byte is 0. -/
theorem loadedState_read (image : List Byte) (a : Nat) :
    (loadedState image).mem.read a =
      if 0x200 ≤ a ∧ a < 0x200 + image.length then image.getD (a - 0x200) 0 else 0 :=
  Memory.read_ofBytes 0x200 image a

theorem loadedState_getV (image : List Byte) (r : Register) : (loadedState image).getV r = 0 :=
  Vector.getElem_replicate r.index.isLt

/-- An image too long is turned away with its length. -/
theorem load_fault {image : List Byte} (h : 3584 < image.length) : load image = .fault (.imageTooLarge image.length) :=
  if_pos h

/-- Settles O9: by the length of the image; what is not the image is the reset state. -/
theorem loadBuildsTheResetState : Obligations.LoadBuildsTheResetState := by
  refine ⟨fun image hfits => ?_, fun image => load_fault⟩
  exact ⟨loadedState image, load_next_iff.2 ⟨hfits, rfl⟩, loadedState_read image, loadedState_getV image, rfl, rfl,
    rfl, fun _ hk => Vector.getElem_replicate hk, rfl, rfl⟩

/-! ## Zeroed memory (R237) -/

/-- Two bytes of 0 at pc are the invalid word 0x0000. -/
theorem coreStep_of_zeroed {s : State} (hlow : 0x200 ≤ s.pc.toNat) (hhigh : s.pc.toNat ≤ 0xFFE)
    (hhi : s.mem.read s.pc.toNat = 0) (hlo : s.mem.read (s.pc.toNat + 1) = 0) :
    coreStep s = .fault (.invalidOpcode s.pc 0x0000) :=
  invalidWordFaults s 0x0000 hlow hhigh (by rw [hhi, hlo]; rfl) (by decide)

/-- With both timers at 0 the first step is the core's. -/
theorem step_loadedState_nil : step (loadedState []) = .fault (.invalidOpcode 0x200 0x0000) := by
  obtain ⟨_, hnotDue, _⟩ := timersOff (s := loadedState []) rfl rfl
  rw [step_of_not_tickDue hnotDue, coreStep_coreTurn_fault_iff]
  exact coreStep_of_zeroed (s := loadedState []) (by decide) (by decide) rfl rfl

/-- The byte after a one-byte image is 0, and the fetch is big-endian. -/
theorem fetch_loadedState_singleton (b : Byte) : fetch (loadedState [b]) = .ok (b ++ 0x00#8) := by
  have hpc : (loadedState [b]).pc.toNat = 0x200 := rfl
  rw [fetch_ok rfl, hpc, loadedState_read, loadedState_read]
  rfl

/-- Settles O11: by the lemmas above, one for each clause. -/
theorem zeroedMemoryIsNoInstruction : Obligations.ZeroedMemoryIsNoInstruction := by
  refine ⟨fun s h => ?_, fun b s h => ?_, fun _ => coreStep_of_zeroed⟩ <;>
    obtain ⟨_, rfl⟩ := load_next_iff.1 h
  · exact step_loadedState_nil
  · exact fetch_loadedState_singleton b

/-! ## The platform's font (R181, R236) -/

@[simp] theorem platformWriteFont_getV (glyphs : Vector Byte 80) (s : State) (r : Register) :
    (platformWriteFont glyphs s).getV r = s.getV r := rfl

@[simp] theorem platformWriteFont_params (glyphs : Vector Byte 80) (s : State) :
    (platformWriteFont glyphs s).params = s.params := rfl

/-- The font ends at or below 0x200. -/
theorem platformWriteFont_read_of_ge (glyphs : Vector Byte 80) (s : State) {a : Nat} (h : 0x200 ≤ a) :
    (platformWriteFont glyphs s).mem.read a = s.mem.read a := by
  have hbase := s.params.fontBase.isLt
  exact Memory.read_writeBlock_outside _ _ _ _ (by rw [Vector.length_toList]; omega)

theorem platformWriteFont_keeps_inv (glyphs : Vector Byte 80) {s : State} (hs : s.Inv) :
    (platformWriteFont glyphs s).Inv := by
  have hbase := s.params.fontBase.isLt
  have ⟨_, hpc, _⟩ := hs
  exact hs.of_stored (us := glyphs.toList) (by rw [Vector.length_toList]; omega) rfl rfl hpc

/-- The glyphs are read back in order from `FONT_BASE` up. -/
theorem platformWriteFont_read_add (glyphs : Vector Byte 80) (s : State) {k : Nat} (hk : k < 80) :
    (platformWriteFont glyphs s).mem.read (s.params.fontBase.val + k) = glyphs.toList.getD k 0 :=
  Memory.read_writeBlock_add _ _ (by rwa [Vector.length_toList])

/-- Settles O12: `LoadSpriteAddress` leaves memory as the platform wrote it, and a digit's glyph lies within the font. -/
theorem platformFontIsFoundByLoadSpriteAddress : Obligations.PlatformFontIsFoundByLoadSpriteAddress := by
  refine fun glyphs s => ⟨fun a => platformWriteFont_read_of_ge glyphs s, platformWriteFont_keeps_inv glyphs,
    fun r => ⟨_, rfl, fun k hk => ?_⟩⟩
  rw [State.advance_mem, State.setI_mem, State.advance_iReg, State.setI_iReg, spriteAddress_toNat,
    platformWriteFont_params, platformWriteFont_getV, Nat.add_assoc]
  exact platformWriteFont_read_add glyphs s (by omega)

end Sys2Proof.Machine
